-- ==== Sys2Proof/Word.lean ====
section
/-! DEFINITION. The word types of the block: every value is an unsigned integer of a stated number of bits, bit 0 the
least significant (spec/00_scope.md R7). -/

namespace Sys2Proof

/-- The entry index `I` and the `IDX` and `WIDTH` fields: 8 bits (R5 `INDEX_BITS`, R62, R66). -/
abbrev Byte := BitVec 8

/-- `R`, `B`, `POLY` and the read port: 16 bits (R20, R41). -/
abbrev Word16 := BitVec 16

/-- The command word `CMD`: 40 bits (R62). -/
abbrev CmdWord := BitVec 40

/-- The sequencer's state code `USEQ`: 4 bits (R67). -/
abbrev UseqCode := BitVec 4

end Sys2Proof
end

