-- ==== Sys2Proof/Config.lean ====
section
/-! DEFINITION. What the spec leaves to the implementation (spec/92_eei_decisions.md) and the free values: constants
without a body, so that no value can be proved of an element where the spec calls it unspecified. Each is a function of
the count of draws, so equal counts give equal values: DESIGN CHOICE, log 24. -/

namespace Sys2Proof.Config

/-- `POLY_IN_BITS` (R5, D3): the width of the command word's polynomial field, at its default. Log 12. -/
def polyInBits : Nat := 32

/-- `N_ENTRIES` (R5). -/
def nEntries : Nat := 256

/-- `ROUNDS` (R5): eight for both widths. -/
def rounds : Nat := 8

/-- What `WSEL` holds after the n-th RESET: unspecified (R36). Free value, log 2. -/
opaque freeWsel : Nat → BitVec 1

/-- What `POLY` holds after the n-th RESET: unspecified (R36). Free value, log 2. -/
opaque freePoly : Nat → Word16

/-- What `R` holds after the n-th RESET: unspecified (R36). Free value, log 2. -/
opaque freeR : Nat → Word16

/-- What `B` holds after the n-th RESET: unspecified (R36). Free value, log 2. -/
opaque freeB : Nat → Word16

/-- What `I` holds after the n-th RESET: unspecified (R36). Free value, log 2. -/
opaque freeI : Nat → Byte

/-- What `K` holds after the n-th RESET: unspecified (R36). Free value, log 2. -/
opaque freeK : Nat → BitVec 3

end Sys2Proof.Config
end

