-- ==== Sys2Proof/Syntax.lean ====
section
/-! DEFINITION. The ten operations of the operation map (spec/30_encoding.md R68, spec/opcode_table.json), and the
encoded forms in which they are presented: the four host actions and the sequencer's state code (R61). -/

namespace Sys2Proof

/-- The operations of R68, one constructor per row of the operation map. -/
inductive Instr where
  /-- RESET (R170): no operand. -/
  | reset
  /-- POLL (R30): no operand. -/
  | poll
  /-- GEN8 (R83): START with width 8; the polynomial before truncation, an unsigned integer (R62). -/
  | gen8 (polyin : Nat)
  /-- GEN16 (R84): START with width 16; the polynomial before truncation. -/
  | gen16 (polyin : Nat)
  /-- RDTAB (R86): the index of the entry to read. -/
  | rdtab (idx : Byte)
  /-- SEED8 (R100). -/
  | seed8
  /-- DIV8 (R101). -/
  | div8
  /-- SEED16 (R110). -/
  | seed16
  /-- DIV16 (R111). -/
  | div16
  /-- STORE (R120): one operation for both widths (R67). -/
  | store
  deriving DecidableEq, Repr

/-- One host action as it is presented to the block (R61): which of the four it is, and its operand word. How the
action travels is the open parameter `HOST_BINDING` (R29, D6): log 16. -/
inductive Request where
  /-- The reset request. -/
  | reset
  /-- A read of `STATUS`. -/
  | poll
  /-- A write of a 40-bit word to `CMD`: the action START. -/
  | start (w : CmdWord)
  /-- An `RD` word: the action RDTAB. -/
  | rdtab (w : Byte)
  deriving DecidableEq, Repr

/-- An encoded operation. The formats belong to different actions and cannot be mistaken for one another (R61), so the
action is part of the code. -/
inductive Code where
  | host (q : Request)
  | useq (c : UseqCode)
  deriving DecidableEq, Repr

end Sys2Proof
end

