-- ==== Sys2Proof/WellFormed.lean ====
section
/-! DEFINITION. Which instructions are well formed: the polynomial of a START must fit the command word's field
(spec/30_encoding.md R62). Every index and every micro-operation is well formed (R66, R67). -/

namespace Sys2Proof

/-- The polynomial fits the `POLYIN` field of `POLY_IN_BITS` bits (R62). -/
def polyInFits (p : Nat) : Bool := decide (p < 2 ^ Config.polyInBits)

/-- Well-formedness of an instruction, one line per constructor. -/
def Instr.wf : Instr → Bool
  | .reset => true
  | .poll => true
  | .gen8 p => polyInFits p
  | .gen16 p => polyInFits p
  | .rdtab _ => true
  | .seed8 => true
  | .div8 => true
  | .seed16 => true
  | .div16 => true
  | .store => true

end Sys2Proof
end

