-- ==== Sys2Proof/Decode.lean ====
section
/-! DEFINITION. The formats `CMD`, `RD` and `USEQ` (spec/30_encoding.md R61 to R67): the fields, the decoder, total and
rejecting by name, the encoder, and the operation map as rows of mask and match (spec/opcode_table.json). -/

namespace Sys2Proof

/-! ## Fields -/

/-- `CMD.WIDTH`, bits 39:32 (R62). -/
def widthField (w : CmdWord) : Byte := w.extractLsb' 32 8

/-- `CMD.POLYIN`, bits 31:0 (R62). -/
def polyField (w : CmdWord) : BitVec 32 := w.extractLsb' 0 32

/-- `USEQ[2:0]`, the `PHASE` part of the state code (R67). -/
def useqPhase (c : UseqCode) : BitVec 3 := c.extractLsb' 0 3

/-- `USEQ[3]`, the `WSEL` part of the state code (R67). -/
def useqWsel (c : UseqCode) : BitVec 1 := c.extractLsb' 3 1

/-! ## Decoding -/

/-- Why a code selects no operation. -/
inductive Reject where
  /-- `CMD.WIDTH` is neither 8 nor 16 (R69). -/
  | illegalWidth (width : Byte)
  /-- `USEQ` with `PHASE` IDLE or DONE: the sequencer has no step (R67). -/
  | noMicroOp
  /-- `USEQ[2:0]` is 5, 6 or 7: unreachable (R70). -/
  | reservedCode
  deriving DecidableEq, Repr

/-- What the decoder answers. -/
inductive Decoded where
  | instr (i : Instr)
  | reject (r : Reject)
  deriving DecidableEq, Repr

/-- A command word: `WIDTH` carries the number 8 or 16 itself, and no other value selects an operation (R63, R69). -/
def decodeCmd (w : CmdWord) : Decoded :=
  if widthField w = 0x08#8 then .instr (.gen8 (polyField w).toNat)
  else if widthField w = 0x10#8 then .instr (.gen16 (polyField w).toNat)
  else .reject (.illegalWidth (widthField w))

/-- The sequencer's state code (R67). -/
def decodeUseq (c : UseqCode) : Decoded :=
  if c = 0b0001#4 then .instr .seed8
  else if c = 0b0010#4 then .instr .div8
  else if c = 0b1001#4 then .instr .seed16
  else if c = 0b1010#4 then .instr .div16
  else if useqPhase c = 0b011#3 then .instr .store
  else if useqPhase c = 0b000#3 ∨ useqPhase c = 0b100#3 then .reject .noMicroOp
  else .reject .reservedCode

/-- A host action: every `RD` word reads an entry, RESET and POLL have no word (R66, R68). -/
def decodeRequest : Request → Decoded
  | .reset => .instr .reset
  | .poll => .instr .poll
  | .start w => decodeCmd w
  | .rdtab w => .instr (.rdtab w)

/-- The decoder. -/
def decode : Code → Decoded
  | .host q => decodeRequest q
  | .useq c => decodeUseq c

/-- The instruction of an answer, if it is one. -/
def Decoded.instr? : Decoded → Option Instr
  | .instr i => some i
  | .reject _ => none

/-! ## Encoding -/

/-- A command word from its two fields (R62). -/
def cmdWord (width : Byte) (polyin : BitVec 32) : CmdWord := width ++ polyin

/-- The code of an instruction. STORE is selected by two codes, 0b0011 and 0b1011; this is the one with `WSEL` = 0
(log 15). -/
def encode : Instr → Code
  | .reset => .host .reset
  | .poll => .host .poll
  | .gen8 p => .host (.start (cmdWord 0x08#8 (BitVec.ofNat 32 p)))
  | .gen16 p => .host (.start (cmdWord 0x10#8 (BitVec.ofNat 32 p)))
  | .rdtab i => .host (.rdtab i)
  | .seed8 => .useq 0b0001#4
  | .div8 => .useq 0b0010#4
  | .seed16 => .useq 0b1001#4
  | .div16 => .useq 0b1010#4
  | .store => .useq 0b0011#4

/-! ## The operation map as rows -/

/-- The format column of the operation map; the two rows without a format are told apart by their request line. -/
inductive Format where
  | resetRequest
  | statusRead
  | cmd
  | rd
  | useq
  deriving DecidableEq, Repr

/-- The format a code is in, and its bits as a number. -/
def Code.bits : Code → Format × Nat
  | .host .reset => (.resetRequest, 0)
  | .host .poll => (.statusRead, 0)
  | .host (.start w) => (.cmd, w.toNat)
  | .host (.rdtab w) => (.rd, w.toNat)
  | .useq c => (.useq, c.toNat)

/-- One row of the operation map: a code is the row's if its bits under `mask` are `value`. -/
structure OpRow where
  mnemonic : String
  format : Format
  mask : Nat
  value : Nat
  deriving DecidableEq, Repr

/-- The ten rows of spec/opcode_table.json, masks and matches as they stand there. -/
def opRows : List OpRow :=
  [⟨"RESET", .resetRequest, 0x0, 0x0⟩,
   ⟨"POLL", .statusRead, 0x0, 0x0⟩,
   ⟨"GEN8", .cmd, 0xFF00000000, 0x0800000000⟩,
   ⟨"GEN16", .cmd, 0xFF00000000, 0x1000000000⟩,
   ⟨"RDTAB", .rd, 0x00, 0x00⟩,
   ⟨"SEED8", .useq, 0xF, 0x1⟩,
   ⟨"DIV8", .useq, 0xF, 0x2⟩,
   ⟨"SEED16", .useq, 0xF, 0x9⟩,
   ⟨"DIV16", .useq, 0xF, 0xA⟩,
   ⟨"STORE", .useq, 0x7, 0x3⟩]

/-- The mnemonic of an instruction (R68). -/
def Instr.mnemonic : Instr → String
  | .reset => "RESET"
  | .poll => "POLL"
  | .gen8 _ => "GEN8"
  | .gen16 _ => "GEN16"
  | .rdtab _ => "RDTAB"
  | .seed8 => "SEED8"
  | .div8 => "DIV8"
  | .seed16 => "SEED16"
  | .div16 => "DIV16"
  | .store => "STORE"

/-- The code lies in the row. -/
def OpRow.selects (row : OpRow) (c : Code) : Bool :=
  decide (row.format = c.bits.1) && decide (c.bits.2 &&& row.mask = row.value)

/-- Two rows share no code: they are of different formats, or differ in a bit that both fix. -/
def OpRow.disjoint (a b : OpRow) : Bool :=
  decide (a.format ≠ b.format) || decide (a.value &&& b.mask ≠ b.value &&& a.mask)

/-! ## Words of the operation map presented without their action -/

/-- The code that a table word of `nbits` bits stands for. The map gives words and not actions, so this is a convention
(log 10): no bits are the reset request (or, with a nonzero word, a read of `STATUS`); 40 bits a command word; under 8
bits a state code; 8 bits a state code if the word is one of the six that select a micro-operation, else an `RD` word. -/
def tableCode (nbits w : Nat) : Option Code :=
  if nbits = 0 then some (.host (if w = 0 then .reset else .poll))
  else if nbits < 8 then some (.useq (BitVec.ofNat 4 w))
  else if nbits = 8 then
    if w < 16 ∧ (decodeUseq (BitVec.ofNat 4 w)).instr?.isSome then some (.useq (BitVec.ofNat 4 w))
    else some (.host (.rdtab (BitVec.ofNat 8 w)))
  else if nbits = 40 then some (.host (.start (BitVec.ofNat 40 w)))
  else none

/-- The instruction the decoder reads from a table word. -/
def decodeTableWord (nbits w : Nat) : Option Instr :=
  match tableCode nbits w with
  | some c => (decode c).instr?
  | none => none

end Sys2Proof
end

