-- ==== Sys2Proof/Machine/State.lean ====
section
/-! DEFINITION. The machine's state: the spec's tuple (PHASE, WSEL, POLY, R, B, I, K, TABLE) of spec/10_state.md R20, and
the outside of the block that a deterministic step needs (whose turn it is, what the host presents, what it got back). -/

namespace Sys2Proof.Machine

/-- `PHASE` (R25): five values, the other three codes cannot be written (R70). -/
inductive Phase where
  | idle
  | seed
  | div
  | store
  | done
  deriving DecidableEq, Repr

/-- The configuration `WSEL` selects (R27): 0 is W8, 1 is W16. -/
inductive Width where
  | w8
  | w16
  deriving DecidableEq, Repr

/-- What POLL returns (R30). -/
inductive Status where
  | idle
  | busy
  | done
  deriving DecidableEq, Repr

/-- A written entry of `TABLE`: a W-bit value, W the width of the run that wrote it (R31, R41). -/
inductive Entry where
  | w8 (v : BitVec 8)
  | w16 (v : BitVec 16)
  deriving DecidableEq, Repr

/-- `TABLE` (R31, R40): the written entries by index, in rising order; an index that is not listed is unwritten (log 8). -/
abbrev Memory := List (Nat × Entry)

/-- Whose step is next (R10), and what the host then presents. Log 4. -/
inductive Turn where
  /-- The sequencer's step. -/
  | seq
  /-- One host action. -/
  | host (q : Request)
  /-- RESET delivered together with another host action, which is dropped (R156; log 13). -/
  | resetWith (q : Request)
  deriving DecidableEq, Repr

/-- A value the block returned to the host (R34). -/
inductive Reply where
  /-- POLL returned this. -/
  | status (v : Status)
  /-- RDTAB returned this on the 16-bit read port. -/
  | entry (v : Word16)
  deriving DecidableEq, Repr

/-- The state of one instance (R20), and the model's own three fields. -/
structure State where
  /-- Where the sequencer is (R25). -/
  phase : Phase
  /-- The width of the current or last command (R27). -/
  wsel : Width
  /-- The polynomial truncated to W bits (R28). -/
  poly : Word16
  /-- The working register `r` (R21). -/
  r : Word16
  /-- The shadow register `b` (R22). -/
  b : Word16
  /-- The entry index `i` (R23). -/
  i : Byte
  /-- Rounds already done for the entry (R24). -/
  k : BitVec 3
  /-- The table memory (R31). -/
  table : Memory
  /-- Not the block's: the turns to come; when none is left the sequencer moves (log 4). -/
  turns : List Turn
  /-- Not the block's: the values returned so far, latest first (log 6). -/
  replies : List Reply
  /-- Not the block's: how many RESETs have drawn free values (log 2; log 24). -/
  draws : Nat
  deriving DecidableEq, Repr

/-- After reset (R36, R170): IDLE and no entry written. WSEL, POLY, R, B, I and K are unspecified in the spec; the zeros
here are the model's choice (DESIGN CHOICE, log 1), and no statement about a run rests on them. -/
def State.reset : State where
  phase := .idle
  wsel := .w8
  poly := 0
  r := 0
  b := 0
  i := 0
  k := 0
  table := []
  turns := []
  replies := []
  draws := 0

/-- Why a step stops with a fault. The block raises no exception (R150, R163); this is the one read the spec leaves
undefined. -/
inductive Fault where
  /-- Raised by RDTAB in DONE when the entry was never written: `TabRead` is defined only for a written entry (R44, U7).
  Safe; no reachable state raises it (R32 (d)). -/
  | unwrittenEntry
  deriving DecidableEq, Repr

/-- Why the block gives an action no meaning (R163). -/
inductive Refusal where
  /-- An instruction that has no meaning in this model. Safe; no arm answers it. -/
  | notModelled (mnemonic : String)
  /-- A START while the block is BUSY: raised by GEN8, GEN16 and a START of an illegal width (R85 step 1). Safe. -/
  | busy
  /-- A START whose width is neither 8 nor 16, in IDLE or DONE (R85 step 2, R69). Safe. -/
  | illegalWidth
  /-- RDTAB outside DONE (R86, R47). Safe. -/
  | tableNotReady
  /-- The sequencer's state code has a reserved `PHASE` part (R70, U9). Safe; no state has such a code. -/
  | reservedCode
  deriving DecidableEq, Repr

end Sys2Proof.Machine
end

