-- ==== Sys2Proof/Machine/Operands.lean ====
section
/-! DEFINITION. Operand assembly and the operators on data (spec/00_scope.md R8, spec/30_encoding.md R64 and R65,
spec/44_table_laws.md R130 to R132), and the codes of the state elements (spec/10_state.md R25, R27, R30). -/

namespace Sys2Proof.Machine

/-! ## Operators -/

/-- `shl_n(a) = (2·a) mod 2^n`: one bit to the left, the top bit discarded (R8, R131). -/
def shl {n : Nat} (a : BitVec n) : BitVec n := a <<< 1

/-- `zext_16` of an 8-bit value (R8). -/
def zext16 (a : BitVec 8) : Word16 := a.setWidth 16

/-- `v[7:0]` of a 16-bit value. -/
def low8 (v : Word16) : BitVec 8 := v.setWidth 8

/-! ## Operands -/

/-- The polynomial operand: `zext_16(trunc_W(POLYIN))` (R64). -/
def polyOperand : Width → Nat → Word16
  | .w8, p => zext16 (BitVec.ofNat 8 p)
  | .w16, p => BitVec.ofNat 16 p

/-- What SEED8 puts in `R`: the index as it is (R65). -/
def seedLow (i : Byte) : Word16 := zext16 i

/-- What SEED16 puts in `B`: `{I, 0x00}`, the index in the high half (R65). -/
def seedHigh (i : Byte) : Word16 := i ++ (0x00#8)

/-- The value STORE writes: `R[7:0]` for W8, `R[15:0]` for W16 (R120). -/
def entryOf : Width → Word16 → Entry
  | .w8, r => .w8 (low8 r)
  | .w16, r => .w16 r

/-- The read port: `zext_16` of the entry (R41). -/
def portValue : Entry → Word16
  | .w8 v => zext16 v
  | .w16 v => v

/-- The number an entry holds. -/
def Entry.toNat : Entry → Nat
  | .w8 v => v.toNat
  | .w16 v => v.toNat

/-- The width of an entry. -/
def Entry.width : Entry → Width
  | .w8 _ => .w8
  | .w16 _ => .w16

/-! ## Codes -/

/-- W as a number of bits (R27). -/
def Width.bits : Width → Nat
  | .w8 => 8
  | .w16 => 16

/-- The 1-bit code of `WSEL` (R27). -/
def Width.code : Width → BitVec 1
  | .w8 => 0
  | .w16 => 1

/-- `WSEL` from its bit (R27). -/
def Width.ofCode (c : BitVec 1) : Width := if c = 0 then .w8 else .w16

/-- The 3-bit code of `PHASE` (R25). -/
def Phase.code : Phase → BitVec 3
  | .idle => 0b000
  | .seed => 0b001
  | .div => 0b010
  | .store => 0b011
  | .done => 0b100

/-- `PHASE` from its code, none for the three reserved ones (R70). -/
def Phase.ofCode (c : BitVec 3) : Option Phase :=
  if c = 0b000 then some .idle
  else if c = 0b001 then some .seed
  else if c = 0b010 then some .div
  else if c = 0b011 then some .store
  else if c = 0b100 then some .done
  else none

/-- The 2-bit code of `STATUS` (R30). -/
def Status.code : Status → BitVec 2
  | .idle => 0b00
  | .busy => 0b01
  | .done => 0b10

/-- `STATUS` is a function of `PHASE` (R30). -/
def Phase.status : Phase → Status
  | .idle => .idle
  | .seed => .busy
  | .div => .busy
  | .store => .busy
  | .done => .done

/-- The block is BUSY: `PHASE` is SEED, DIV or STORE (R30, R85). -/
def Phase.busy : Phase → Bool
  | .idle => false
  | .seed => true
  | .div => true
  | .store => true
  | .done => false

/-- `USEQ = {WSEL, PHASE[2:0]}` (R67). -/
def useqOf (w : Width) (p : Phase) : UseqCode := w.code ++ p.code

end Sys2Proof.Machine
end

