-- ==== Sys2Proof/Machine/Flags.lean ====
section
/-! DEFINITION. The block's one condition value, `carry` (spec/10_state.md R26): computed from the state before a round,
used inside the same step and not kept. And the round that uses it (R101, R111 sub-steps 1 to 3). -/

namespace Sys2Proof.Machine

/-- `carry` of the width-8 procedure: bit 7 of `r` before shifting (R101). -/
def carry8 (r : BitVec 8) : Bool := r.getLsbD 7

/-- `carry` of the width-16 procedure: bit 15 of `r XOR b` before shifting (R111). -/
def carry16 (r b : Word16) : Bool := (r ^^^ b).getLsbD 15

/-- The new `r` of a width-8 round: shift, then XOR the polynomial if the carry was set (R101). -/
def round8 (p r : BitVec 8) : BitVec 8 := if carry8 r then shl r ^^^ p else shl r

/-- The new `r` of a width-16 round (R111). -/
def round16 (p r b : Word16) : Word16 := if carry16 r b then shl r ^^^ p else shl r

end Sys2Proof.Machine
end

