-- ==== Sys2Proof/Machine/Ops.lean ====
section
/-! DEFINITION. The named operations over the table memory and the registers that the meanings share
(spec/20_memory.md R44, spec/40_commands.md R83 to R86, spec/43_store_and_sequencing.md R120). There is no exception to
take and none to return from: the block raises none and has no trap state (spec/60_exceptions.md R150, R157, R158). -/

namespace Sys2Proof.Machine

/-! ## The table memory -/

/-- `TabRead(i)`: the value of entry `i`, none if it is unwritten (R44). -/
def Memory.read : Memory → Nat → Option Entry
  | [], _ => none
  | (j, e) :: m, i => if j = i then some e else Memory.read m i

/-- `TabWrite(i, v)`: entry `i` becomes written with `v`, no other entry changes (R44). -/
def Memory.write : Memory → Nat → Entry → Memory
  | [], i, e => [(i, e)]
  | (j, f) :: m, i, e =>
    if i < j then (i, e) :: (j, f) :: m
    else if i = j then (i, e) :: m
    else (j, f) :: Memory.write m i e

/-- All 256 entries unwritten (R83, R84, R170). -/
def Memory.unwritten : Memory := []

/-- The canonical form: indices strictly rising and below 256 (R40). -/
abbrev Memory.wf (m : Memory) : Prop :=
  m.Pairwise (fun a b => a.1 < b.1) ∧ ∀ c ∈ m, c.1 < Config.nEntries

/-! ## The host's side -/

/-- A value goes back to the host; the block's own state is as it was (R30, R86). -/
def returnToHost (v : Reply) (s : State) : State := { s with replies := v :: s.replies }

/-- The turn that was next is over. -/
def dropTurn (s : State) : State := { s with turns := s.turns.tail }

/-! ## The host actions' shared parts -/

/-- An accepted START, one atomic step (R83, R84): latch the width and the truncated polynomial, clear the counters,
discard the table, enter SEED. `R` and `B` are not written. -/
def acceptStart (w : Width) (polyin : Nat) (s : State) : State :=
  { s with
    wsel := w
    poly := polyOperand w polyin
    i := 0
    k := 0
    table := Memory.unwritten
    phase := .seed }

/-- A START with a legal width: refused while BUSY, else accepted (R85). -/
def startRun (w : Width) (polyin : Nat) (s : State) : Host.Outcome State Fault Refusal :=
  if s.phase.busy then .refused .busy else .next (acceptStart w polyin s)

/-- A START whose width is not 8 or 16: BUSY is looked at first, then the width (R85, R69). -/
def refuseStart (s : State) : Host.Outcome State Fault Refusal :=
  if s.phase.busy then .refused .busy else .refused .illegalWidth

/-- RESET (R170, R171): IDLE, every entry unwritten, and WSEL, POLY, R, B, I, K unspecified: each a free value (log 2).
DESIGN CHOICE (log 24): each free value depends on the count `State.draws` alone, so two RESETs at the same count, of two
instances or in two runs, leave equal values here; the spec leaves them unspecified and relates no two of them (R36, R161). -/
def resetBlock (s : State) : State :=
  { s with
    phase := .idle
    table := Memory.unwritten
    wsel := Width.ofCode (Config.freeWsel s.draws)
    poly := Config.freePoly s.draws
    r := Config.freeR s.draws
    b := Config.freeB s.draws
    i := Config.freeI s.draws
    k := Config.freeK s.draws
    draws := s.draws + 1 }

/-! ## The sequencer's shared parts -/

/-- A SEED step's end: no round done yet, on to DIV (R100, R110). -/
def enterDiv (s : State) : State := { s with k := 0, phase := .div }

/-- A DIV step's end (R101, R111 sub-step 5): the eighth round goes on to STORE, the others count. -/
def countRound (s : State) : State :=
  if s.k = 7 then { s with k := 0, phase := .store } else { s with k := s.k + 1 }

/-- A STORE step's end (R120): after entry 255 the run is over and `I` stays, else the next entry. -/
def nextEntry (s : State) : State :=
  if s.i = 255 then { s with phase := .done } else { s with i := s.i + 1, phase := .seed }

end Sys2Proof.Machine
end

