-- ==== Sys2Proof/Machine/HostActions.lean ====
section
/-! DEFINITION. The meanings of the host actions RESET, POLL, GEN8, GEN16 and RDTAB (spec/70_reset_and_hazards.md R170,
spec/10_state.md R30, spec/40_commands.md R83 to R86). -/

namespace Sys2Proof.Machine

/-- RESET: admitted in every phase (R170, R171). -/
def execReset (s : State) : Host.Outcome State Fault Refusal := .next (resetBlock s)

/-- POLL: returns `STATUS` and changes nothing (R30). -/
def execPoll (s : State) : Host.Outcome State Fault Refusal :=
  .next (returnToHost (.status s.phase.status) s)

/-- GEN8 (R83, R85). -/
def execGen8 (polyin : Nat) (s : State) : Host.Outcome State Fault Refusal := startRun .w8 polyin s

/-- GEN16 (R84, R85). -/
def execGen16 (polyin : Nat) (s : State) : Host.Outcome State Fault Refusal := startRun .w16 polyin s

/-- RDTAB: in DONE the entry goes to the host zero-extended; in any other phase the action is refused (R86). -/
def execRdtab (idx : Byte) (s : State) : Host.Outcome State Fault Refusal :=
  if s.phase = .done then
    match Memory.read s.table idx.toNat with
    | some e => .next (returnToHost (.entry (portValue e)) s)
    | none => .fault .unwrittenEntry
  else .refused .tableNotReady

end Sys2Proof.Machine
end

