-- ==== Sys2Proof/Machine/MicroW16.lean ====
section
/-! DEFINITION. The width-16 micro-operations SEED16 and DIV16 (spec/42_microops_w16.md). -/

namespace Sys2Proof.Machine

/-- SEED16: `R <- 0x0000; B <- {I, 0x00}; K <- 0; PHASE <- DIV` (R110). -/
def execSeed16 (s : State) : Host.Outcome State Fault Refusal :=
  .next (enterDiv { s with r := 0, b := seedHigh s.i })

/-- DIV16: one round on `R` and `B`, both read before either is written; `B` is only shifted (R111). -/
def execDiv16 (s : State) : Host.Outcome State Fault Refusal :=
  .next (countRound { s with r := round16 s.poly s.r s.b, b := shl s.b })

end Sys2Proof.Machine
end

