-- ==== Sys2Proof/Machine/MicroW8.lean ====
section
/-! DEFINITION. The width-8 micro-operations SEED8 and DIV8 (spec/41_microops_w8.md). -/

namespace Sys2Proof.Machine

/-- SEED8: `R <- zext_16(I); K <- 0; PHASE <- DIV` (R100). -/
def execSeed8 (s : State) : Host.Outcome State Fault Refusal :=
  .next (enterDiv { s with r := seedLow s.i })

/-- DIV8: one round on `R[7:0]` with `POLY[7:0]`, the result zero-extended (R101). -/
def execDiv8 (s : State) : Host.Outcome State Fault Refusal :=
  .next (countRound { s with r := zext16 (round8 (low8 s.poly) (low8 s.r)) })

end Sys2Proof.Machine
end

