-- ==== Sys2Proof/Machine/Store.lean ====
section
/-! DEFINITION. The micro-operation STORE (spec/43_store_and_sequencing.md R120). -/

namespace Sys2Proof.Machine

/-- STORE: entry `I` becomes written with the W low bits of `R`, then the outer loop advances (R120). -/
def execStore (s : State) : Host.Outcome State Fault Refusal :=
  .next (nextEntry { s with table := Memory.write s.table s.i.toNat (entryOf s.wsel s.r) })

end Sys2Proof.Machine
end

