-- ==== Sys2Proof/Machine/Dispatch.lean ====
section
/-! DEFINITION. exec: one arm per operation of spec/opcode_table.json, each one call of its meaning. -/

namespace Sys2Proof.Machine

def exec (i : Instr) (s : State) : Host.Outcome State Fault Refusal :=
  match i with
  | .reset => Sys2Proof.Machine.execReset s
  | .poll => Sys2Proof.Machine.execPoll s
  | .gen8 polyin => Sys2Proof.Machine.execGen8 polyin s
  | .gen16 polyin => Sys2Proof.Machine.execGen16 polyin s
  | .rdtab idx => Sys2Proof.Machine.execRdtab idx s
  | .seed8 => Sys2Proof.Machine.execSeed8 s
  | .div8 => Sys2Proof.Machine.execDiv8 s
  | .seed16 => Sys2Proof.Machine.execSeed16 s
  | .div16 => Sys2Proof.Machine.execDiv16 s
  | .store => Sys2Proof.Machine.execStore s

end Sys2Proof.Machine
end

