-- ==== Sys2Proof/Machine/Agents.lean ====
section
/-! DEFINITION. The two agents (spec/00_scope.md R10): the sequencer, whose step the state code selects
(spec/43_store_and_sequencing.md R121), and the host, whose action is decoded and run; and whose turn it is. -/

namespace Sys2Proof.Machine

/-- The sequencer's step: the micro-operation that `USEQ` selects. In IDLE and DONE it has none and waits: the state is
as it was (R121, R162; log 5). -/
def sequencerTurn (s : State) : Host.Outcome State Fault Refusal :=
  match decode (.useq (useqOf s.wsel s.phase)) with
  | .instr i => exec i s
  | .reject .noMicroOp => .next s
  | .reject _ => .refused .reservedCode

/-- The host's step: a legal action is run; the only word that selects nothing is a START of an illegal width (R69). -/
def hostTurn (q : Request) (s : State) : Host.Outcome State Fault Refusal :=
  match decode (.host q) with
  | .instr i => exec i s
  | .reject _ => refuseStart s

/-- The next turn is taken from the front; when none is left the sequencer moves (R10, R180; log 4). RESET beats an
action delivered with it (R156). -/
def takeTurn (s : State) : Host.Outcome State Fault Refusal :=
  match s.turns with
  | [] => sequencerTurn s
  | .seq :: ts => sequencerTurn { s with turns := ts }
  | .host q :: ts => hostTurn q { s with turns := ts }
  | .resetWith _ :: ts => hostTurn .reset { s with turns := ts }

/-- The state in which a code is what runs next: a host action as the next turn, a state code as `WSEL` and `PHASE` with
the sequencer's turn next. A reserved state code has no state, so nothing changes. -/
def present (c : Code) (s : State) : State :=
  match c with
  | .host q => { s with turns := .host q :: s.turns }
  | .useq u =>
    match Phase.ofCode (useqPhase u) with
    | some p => { s with wsel := Width.ofCode (useqWsel u), phase := p, turns := .seq :: s.turns }
    | none => s

end Sys2Proof.Machine
end

