-- ==== Sys2Proof/Machine/Step.lean ====
section
/-! DEFINITION. The step of the machine, and how the host's check places an instruction where the next step runs it. -/

namespace Sys2Proof.Machine

/-- One atomic step of whichever agent moves next (spec/00_scope.md R10). -/
def step (s : State) : Host.Outcome State Fault Refusal := takeTurn s

/-- The block fetches no instructions (spec/10_state.md R25). What runs next is what the host presents or what `WSEL` and
`PHASE` select, so the word is placed there (log 10, log 11). -/
def State.withFetchWord (s : State) (nbits w : Nat) : State :=
  match tableCode nbits w with
  | some c => present c s
  | none => s

end Sys2Proof.Machine
end

