-- ==== Sys2Proof/Machine/Contract.lean ====
section
/-! DEFINITION. Level L0: the functional contract `generate(width, polynomial) → Table` (spec/40_commands.md R80 to R82),
written over natural numbers with a mask after every shift (R131), apart from the machine's words; and the generic
routine with its plain and shadow rounds (spec/43_store_and_sequencing.md R126, spec/44_table_laws.md R141). Log 17. -/

namespace Sys2Proof.Machine

/-! ## Width 8 (R81) -/

/-- `r_{k+1}` from `r_k`: `s_k = shl_8(r_k)`, XOR `p` if bit 7 of `r_k` was set. -/
def next8 (p r : Nat) : Nat := if r.testBit 7 then (2 * r % 2 ^ 8) ^^^ p else 2 * r % 2 ^ 8

/-- `r_k` of R81, from `r_0 = i`. -/
def iter8 (p i : Nat) : Nat → Nat
  | 0 => i
  | k + 1 => next8 p (iter8 p i k)

/-- `T8(p)[i] = r_8`. -/
def T8entry (p i : Nat) : Nat := iter8 p i 8

/-- `T8(p)`: the 256 entries in index order. -/
def T8 (p : Nat) : List Nat := (List.range 256).map (T8entry p)

/-! ## Width 16 (R82) -/

/-- `(r_{k+1}, b_{k+1})` from `(r_k, b_k)`. -/
def next16 (p : Nat) (x : Nat × Nat) : Nat × Nat :=
  (if (x.1 ^^^ x.2).testBit 15 then (2 * x.1 % 2 ^ 16) ^^^ p else 2 * x.1 % 2 ^ 16, 2 * x.2 % 2 ^ 16)

/-- `(r_k, b_k)` of R82, from `r_0 = 0` and `b_0 = i << 8`. -/
def iter16 (p i : Nat) : Nat → Nat × Nat
  | 0 => (0, i * 2 ^ 8)
  | k + 1 => next16 p (iter16 p i k)

/-- `T16(p)[i] = r_8`. -/
def T16entry (p i : Nat) : Nat := (iter16 p i 8).1

/-- `T16(p)`: the 256 entries in index order. -/
def T16 (p : Nat) : List Nat := (List.range 256).map (T16entry p)

/-! ## The contract (R80) -/

/-- `generate(width, polynomial)` with the polynomial truncated to the width (R64); defined for the widths 8 and 16. -/
def generate (width polynomial : Nat) : Option (List Nat) :=
  if width = 8 then some (T8 (polynomial % 2 ^ 8))
  else if width = 16 then some (T16 (polynomial % 2 ^ 16))
  else none

/-- Entry `i` of the table of the configuration `w` for the truncated polynomial `p`: `T_W(p)[i]`. -/
def tableEntry : Width → Nat → Nat → Nat
  | .w8, p, i => T8entry p i
  | .w16, p, i => T16entry p i

/-- `trunc_W(polynomial)` (R64). -/
def truncW (w : Width) (p : Nat) : Nat := p % 2 ^ w.bits

/-! ## The generic routine (R126, R141) -/

/-- The plain round on a W-bit register (R141). -/
def plainRound (w p r : Nat) : Nat :=
  if r.testBit (w - 1) then (2 * r % 2 ^ w) ^^^ p else 2 * r % 2 ^ w

/-- `k` plain rounds. -/
def plainRounds (w p : Nat) : Nat → Nat → Nat
  | 0, r => r
  | k + 1, r => plainRounds w p k (plainRound w p r)

/-- The shadow round on a pair of W-bit registers `(r, b)` (R141). -/
def shadowRound (w p : Nat) (x : Nat × Nat) : Nat × Nat :=
  (if (x.1 ^^^ x.2).testBit (w - 1) then (2 * x.1 % 2 ^ w) ^^^ p else 2 * x.1 % 2 ^ w, 2 * x.2 % 2 ^ w)

/-- `k` shadow rounds. -/
def shadowRounds (w p : Nat) : Nat → Nat × Nat → Nat × Nat
  | 0, x => x
  | k + 1, x => shadowRounds w p k (shadowRound w p x)

/-- The one routine parameterized by width: the seed register holds the byte in the most significant position and is
tracked alongside the accumulator (R126). -/
def genericEntry (w p i : Nat) : Nat := (shadowRounds w p 8 (0, i * 2 ^ (w - 8))).1

end Sys2Proof.Machine
end

