-- ==== Sys2Proof/Machine/HostCrc.lean ====
section
/-! DEFINITION. What the host computes with a finished table, outside the block (spec/44_table_laws.md R143, R144): the
table-driven update loops and the bit-serial divisions they must agree with. The register's value before the message is
an argument (log 19). -/

namespace Sys2Proof.Machine

/-- Width 8, table-driven: `reg <- T[reg XOR m]` for each byte (R144). -/
def crcTable8 (T : List Nat) : Nat → List Nat → Nat
  | reg, [] => reg
  | reg, m :: ms => crcTable8 T (T.getD (reg ^^^ m) 0) ms

/-- Width 8, bit-serial: `reg <- reg XOR m`, then eight plain rounds (R144). -/
def crcSerial8 (p : Nat) : Nat → List Nat → Nat
  | reg, [] => reg
  | reg, m :: ms => crcSerial8 p (plainRounds 8 p 8 (reg ^^^ m)) ms

/-- Width 16, table-driven: `reg <- T[reg[15:8] XOR m] XOR trunc_16(reg << 8)` (R143, R144). -/
def crcTable16 (T : List Nat) : Nat → List Nat → Nat
  | reg, [] => reg
  | reg, m :: ms => crcTable16 T (T.getD ((reg / 2 ^ 8) ^^^ m) 0 ^^^ (reg * 2 ^ 8 % 2 ^ 16)) ms

/-- Width 16, bit-serial: `reg <- reg XOR (m << 8)`, then eight plain rounds (R144). -/
def crcSerial16 (p : Nat) : Nat → List Nat → Nat
  | reg, [] => reg
  | reg, m :: ms => crcSerial16 p (plainRounds 16 p 8 (reg ^^^ m * 2 ^ 8)) ms

end Sys2Proof.Machine
end

