-- ==== Sys2Proof/Machine/Run.lean ====
section
/-! DEFINITION. Runs of many steps: the model's run, which ends at a refusal (spec/60_exceptions.md R163), and the run of
the hardware as decided, which ignores a refused action and goes on, the refusal kept as a mark (R85, R125, R163). -/

namespace Sys2Proof.Machine

/-- `n` steps; the first fault or refusal ends the run. -/
def run : Nat → State → Host.Outcome State Fault Refusal
  | 0, s => .next s
  | n + 1, s =>
    match step s with
    | .next t => run n t
    | .fault f => .fault f
    | .refused r => .refused r

/-- A state with the refusals of the run so far, latest first (R163). -/
structure Marked where
  state : State
  refusals : List Refusal
  deriving DecidableEq, Repr

/-- One step of the hardware as decided: a refused action changes nothing but that its turn is over (R85, R86; log 7). -/
def hwStep (m : Marked) : Host.Outcome Marked Fault Refusal :=
  match step m.state with
  | .next t => .next { m with state := t }
  | .fault f => .fault f
  | .refused r => .next { state := dropTurn m.state, refusals := r :: m.refusals }

/-- `n` steps of the hardware as decided. -/
def hwRun : Nat → Marked → Host.Outcome Marked Fault Refusal
  | 0, m => .next m
  | n + 1, m =>
    match hwStep m with
    | .next m' => hwRun n m'
    | .fault f => .fault f
    | .refused r => .refused r

/-- The turn is the sequencer's. -/
def Turn.isSeq : Turn → Bool
  | .seq => true
  | .host _ => false
  | .resetWith _ => false

/-- The turn brings a RESET. -/
def Turn.isReset : Turn → Bool
  | .seq => false
  | .host .reset => true
  | .host _ => false
  | .resetWith _ => true

/-- The turn is a POLL. -/
def Turn.isPoll : Turn → Bool
  | .host .poll => true
  | _ => false

/-- How many of the turns are the sequencer's. -/
def seqTurns (ts : List Turn) : Nat := ts.countP Turn.isSeq

/-- Micro-steps from here to DONE (R124): what the entry still needs, and ten for each entry after it. -/
def remaining (s : State) : Nat :=
  match s.phase with
  | .idle => 0
  | .seed => 10 * (255 - s.i.toNat) + 10
  | .div => 10 * (255 - s.i.toNat) + 9 - s.k.toNat
  | .store => 10 * (255 - s.i.toNat) + 1
  | .done => 0

end Sys2Proof.Machine
end

