-- ==== Sys2Proof/Machine/Instances.lean ====
section
/-! DEFINITION. Several instances of the block side by side: the product of independent copies (spec/10_state.md R35,
spec/60_exceptions.md R161). Log 20. -/

namespace Sys2Proof.Machine

/-- One step of instance `k`; the others keep their states. An index without an instance steps nothing (log 20).
DESIGN CHOICE (log 25): the spec does not say what a refusal or a fault of one instance is for the product; here it is the
outcome of the joint step and ends it, as it ends the run of a single block (R163). `hwStepInstance` goes on past it. -/
def stepInstance (k : Nat) (ms : List State) : Host.Outcome (List State) Fault Refusal :=
  match ms[k]? with
  | none => .next ms
  | some s =>
    match step s with
    | .next t => .next (ms.set k t)
    | .fault f => .fault f
    | .refused r => .refused r

/-- The same for the hardware as decided: a refused action of instance `k` is ignored, its reason is kept as that
instance's mark, and every instance goes on (R85, R86, R163). DESIGN CHOICE (log 25): a fault, which no run from
power-on raises, still ends the joint step. -/
def hwStepInstance (k : Nat) (ms : List Marked) : Host.Outcome (List Marked) Fault Refusal :=
  match ms[k]? with
  | none => .next ms
  | some m =>
    match hwStep m with
    | .next m' => .next (ms.set k m')
    | .fault f => .fault f
    | .refused r => .refused r

end Sys2Proof.Machine
end

