-- ==== Sys2Proof/Machine/Pseudo.lean ====
section
/-! DEFINITION. The test programs' notation (spec/30_encoding.md R72): host actions and the pseudo-operations GENERATE,
RDALL and WAIT (R73), each as the turns it stands for, and the boot sequence (spec/70_reset_and_hazards.md R172). -/

namespace Sys2Proof.Machine

/-- WAIT from the state `s`: POLL repeated until it returns DONE (R72), so the turns end with the first POLL that does.
The list is the model's (log 23): how many micro-steps the sequencer takes before each POLL. `none`: no POLL of the list
returns DONE, so WAIT is not over yet; in IDLE it never is. -/
def waitTurns : List Nat → State → Option (List Turn)
  | [], _ => none
  | gap :: gaps, s =>
    let ts := List.replicate gap Turn.seq ++ [.host .poll]
    match run ts.length { s with turns := ts } with
    | .next t => if t.replies.head? = some (.status .done) then some ts else (waitTurns gaps t).map (ts ++ ·)
    | .fault _ => none
    | .refused _ => none

/-- The pseudo-operations of R73. -/
inductive Pseudo where
  /-- `GENERATE <w>, <polyin>`: GEN8, GEN16 or the illegal START, by the width. -/
  | generate (width : Byte) (polyin : BitVec 32)
  /-- `RDALL`: RDTAB 0 to RDTAB 255 in that order. -/
  | rdall
  /-- `WAIT`: POLL until it returns DONE, with the micro-steps before each POLL (log 23). -/
  | wait (gaps : List Nat)
  deriving DecidableEq, Repr

/-- The expansion in the state where it is issued (R73); only WAIT's depends on the state. -/
def Pseudo.turns (p : Pseudo) (s : State) : Option (List Turn) :=
  match p with
  | .generate w polyin => some [.host (.start (cmdWord w polyin))]
  | .rdall => some ((List.range 256).map fun i => .host (.rdtab (BitVec.ofNat 8 i)))
  | .wait gaps => waitTurns gaps s

/-- A line of a program (R72, 95_test_vectors.md section 5). -/
inductive Line where
  /-- A host action. -/
  | action (q : Request)
  /-- A pseudo-operation. -/
  | pseudo (p : Pseudo)
  /-- So many sequencer micro-steps pass. -/
  | pass (n : Nat)
  deriving DecidableEq, Repr

/-- The turns of a line issued in the state `s`. -/
def Line.turns (l : Line) (s : State) : Option (List Turn) :=
  match l with
  | .action q => some [.host q]
  | .pseudo p => p.turns s
  | .pass n => some (List.replicate n .seq)

/-- The turns of a program from the state `s`: each line is issued in the state that the lines before it leave, a refused
action being ignored (R85, R86). `none`: a WAIT is not over. -/
def programTurns : List Line → State → Option (List Turn)
  | [], _ => some []
  | l :: ls, s =>
    match l.turns s with
    | none => none
    | some ts =>
      match hwRun ts.length ⟨{ s with turns := ts }, []⟩ with
      | .next m => (programTurns ls m.state).map (ts ++ ·)
      | .fault _ => none
      | .refused _ => none

/-- Boot (R172): RESET, START, POLL until DONE, then read the table out. -/
def bootProgram (gaps : List Nat) (width : Byte) (polyin : BitVec 32) : List Line :=
  [.action .reset, .pseudo (.generate width polyin), .pseudo (.wait gaps), .pseudo .rdall]

end Sys2Proof.Machine
end

