-- ==== Sys2Proof/Safety.lean ====
section
/-! DEFINITION. What statements about the machine are said in: the states right after power-on, the reachable states, the
invariants of spec/10_state.md R32 and what a host can observe (spec/10_state.md R34). -/

namespace Sys2Proof.Machine

/-- A state the spec allows after power-on (R36): IDLE, no entry written, nothing returned yet; the six unspecified
elements, the turns to come and the count of draws are whatever they are. -/
def PowerOn (s : State) : Prop := s.phase = .idle ∧ s.table = Memory.unwritten ∧ s.replies = []

/-- Reachable from some power-on state. -/
def Reachable (s : State) : Prop := ∃ s₀ n, PowerOn s₀ ∧ run n s₀ = .next s

/-- How many of the entries are written, by phase and index (R32 (c), (d), (e)). -/
def writtenBelow (s : State) : Nat :=
  match s.phase with
  | .idle => 0
  | .seed => s.i.toNat
  | .div => s.i.toNat
  | .store => s.i.toNat
  | .done => 256

/-- The invariants of R32, with the two facts that carry them over a step: the registers hold `r_k` and `b_k` (R102,
R112). -/
structure Invariants (s : State) : Prop where
  /-- The table memory is in its canonical form (R40). -/
  tableWf : Memory.wf s.table
  /-- (a) `R[15:8] = 0` in DIV and STORE of a width-8 run. -/
  highR : s.wsel = .w8 → s.phase = .div ∨ s.phase = .store → s.r.toNat < 2 ^ 8
  /-- (a) `POLY[15:8] = 0` whenever `WSEL = 0` and `PHASE` is not IDLE. -/
  highPoly : s.wsel = .w8 → s.phase ≠ .idle → s.poly.toNat < 2 ^ 8
  /-- (b) `B[7:0] = 0` and `B = trunc_16(I << (8 + K))` in DIV of a width-16 run. -/
  shadow : s.wsel = .w16 → s.phase = .div →
    s.b.toNat = s.i.toNat * 2 ^ (8 + s.k.toNat) % 2 ^ 16 ∧ s.b.toNat % 2 ^ 8 = 0
  /-- (c), (d), (e) The entries below `writtenBelow` are written with their L0 value, the others are unwritten. -/
  entries : ∀ j, j < 256 →
    (j < writtenBelow s → ∃ e, Memory.read s.table j = some e ∧ e.toNat = tableEntry s.wsel s.poly.toNat j) ∧
      (writtenBelow s ≤ j → Memory.read s.table j = none)
  /-- (d) `I = 255` and `K = 0` in DONE. -/
  doneCounters : s.phase = .done → s.i = 255 ∧ s.k = 0
  /-- (f) `K = 0` in SEED and STORE. -/
  roundCounter : s.phase = .seed ∨ s.phase = .store → s.k = 0
  /-- (g) Every written entry is of the run's width, and so less than `2^W`. -/
  contained : ∀ j e, Memory.read s.table j = some e → e.width = s.wsel ∧ e.toNat < 2 ^ s.wsel.bits
  /-- `R` is `r_k` in DIV of a width-8 run (R102). -/
  round8 : s.wsel = .w8 → s.phase = .div → s.r.toNat = iter8 s.poly.toNat s.i.toNat s.k.toNat
  /-- `R` and `B` are `r_k` and `b_k` in DIV of a width-16 run (R112). -/
  round16 : s.wsel = .w16 → s.phase = .div →
    (s.r.toNat, s.b.toNat) = iter16 s.poly.toNat s.i.toNat s.k.toNat
  /-- In STORE `R` is the entry (R102, R112), and it stays there in DONE (R127). -/
  finished : s.phase = .store ∨ s.phase = .done → s.r.toNat = tableEntry s.wsel s.poly.toNat s.i.toNat
  /-- After the eighth DIV16 of an entry `B` is zero (R22), and it stays so in DONE (R127). -/
  shadowOut : s.wsel = .w16 → s.phase = .store ∨ s.phase = .done → s.b = 0

/-- What the host can observe of a state (R34): `STATUS`, the values returned, and, in DONE, what RDTAB returns. -/
def sameView (s t : State) : Prop :=
  s.phase.status = t.phase.status ∧ s.replies = t.replies ∧ s.turns = t.turns ∧
    (s.phase = .done → ∀ j, (Memory.read s.table j).map portValue = (Memory.read t.table j).map portValue)

/-- Two runs end alike for the host: both go on with the same view, or both stop for the same reason. -/
def sameOutcome : Host.Outcome State Fault Refusal → Host.Outcome State Fault Refusal → Prop
  | .next s, .next t => sameView s t
  | .fault f, .fault g => f = g
  | .refused q, .refused r => q = r
  | _, _ => False

end Sys2Proof.Machine
end

