-- ==== Sys2Proof/Certificates/Slice0/Obligations.lean ====
section
/-! DEFINITION. The statements for the provers, from the numbered rules of spec/. A fact about a free value (log 2) or a
named reset value (log 1) is in none of them. -/

open Sys2Proof Sys2Proof.Machine

/-! ## Encoding -/

/-- Words written out from R62, R63, R66, R67 and R69, and what each selects. -/
def Obligations.WrittenOutWordsDecode : Prop :=
  decode (.host (.start 0x080000009B#40)) = .instr (.gen8 0x9B) ∧
  decode (.host (.start 0x1000001021#40)) = .instr (.gen16 0x1021) ∧
  decode (.host (.start 0x08FFFFFFFF#40)) = .instr (.gen8 0xFFFFFFFF) ∧
  decode (.host (.start 0x0C0000009B#40)) = .reject (.illegalWidth 12) ∧
  decode (.host (.start 0x000000009B#40)) = .reject (.illegalWidth 0) ∧
  decode (.host (.rdtab 0xF8#8)) = .instr (.rdtab 248) ∧
  decode (.useq 0b0001#4) = .instr .seed8 ∧ decode (.useq 0b0010#4) = .instr .div8 ∧
  decode (.useq 0b1001#4) = .instr .seed16 ∧ decode (.useq 0b1010#4) = .instr .div16 ∧
  decode (.useq 0b0011#4) = .instr .store ∧ decode (.useq 0b1011#4) = .instr .store ∧
  decode (.useq 0b1100#4) = .reject .noMicroOp ∧ decode (.useq 0b0101#4) = .reject .reservedCode

/-- R62, R63, R69: bits 39:32 are the width as a number and bits 31:0 the polynomial; the other 254 widths select
nothing. -/
def Obligations.CommandWordFieldsDecode : Prop :=
  ∀ w : CmdWord,
    (w.toNat / 2 ^ 32 = 8 → decode (.host (.start w)) = .instr (.gen8 (w.toNat % 2 ^ 32))) ∧
    (w.toNat / 2 ^ 32 = 16 → decode (.host (.start w)) = .instr (.gen16 (w.toNat % 2 ^ 32))) ∧
    (w.toNat / 2 ^ 32 ≠ 8 → w.toNat / 2 ^ 32 ≠ 16 →
      decode (.host (.start w)) = .reject (.illegalWidth (BitVec.ofNat 8 (w.toNat / 2 ^ 32))))

/-- Every well-formed instruction comes back from its code. -/
def Obligations.DecodeOfEncode : Prop :=
  ∀ i : Instr, i.wf = true → decode (encode i) = .instr i

/-- What a code decodes to is well formed and has that code, but for STORE, which has two (R67). -/
def Obligations.EncodeOfDecode : Prop :=
  ∀ (c : Code) (i : Instr), decode c = .instr i →
    i.wf = true ∧ (encode i = c ∨ i = .store ∧ c = .useq 0b1011#4)

/-- The decoder reads the operation map: a code lies in a row's mask and match exactly if it decodes to the instruction
of the row's mnemonic (R68, opcode_table.json). -/
def Obligations.DecoderFollowsOperationMap : Prop :=
  ∀ c : Code, ∀ row ∈ opRows, row.selects c = true ↔ ∃ i, decode c = .instr i ∧ i.mnemonic = row.mnemonic

/-- R70: no phase and width give a reserved state code, and no phase gives `STATUS` the code 3. -/
def Obligations.ReservedCodesNeverProduced : Prop :=
  ∀ (w : Width) (p : Phase),
    decode (.useq (useqOf w p)) ≠ .reject .reservedCode ∧ p.code.toNat < 5 ∧ p.status.code ≠ 0b11#2

/-! ## The step -/

/-- A host action whose code decodes to an instruction is run by the step, its turn over. -/
def Obligations.StepRunsTheHostAction : Prop :=
  ∀ (s : State) (q : Request) (ts : List Turn) (i : Instr),
    s.turns = .host q :: ts → decode (.host q) = .instr i → step s = exec i { s with turns := ts }

/-- R121: on the sequencer's turn the micro-operation is chosen by `WSEL` and `PHASE` alone; in IDLE and DONE it has no
step. That the sequencer moves when no turn is scheduled, and that its turn is then spent, is the model's choice
(log 4, log 5). -/
def Obligations.StepSelectsTheMicroOperation : Prop :=
  ∀ (s : State) (ts : List Turn), (s.turns = [] ∧ ts = [] ∨ s.turns = .seq :: ts) →
    (s.phase = .seed → s.wsel = .w8 → step s = exec .seed8 { s with turns := ts }) ∧
    (s.phase = .seed → s.wsel = .w16 → step s = exec .seed16 { s with turns := ts }) ∧
    (s.phase = .div → s.wsel = .w8 → step s = exec .div8 { s with turns := ts }) ∧
    (s.phase = .div → s.wsel = .w16 → step s = exec .div16 { s with turns := ts }) ∧
    (s.phase = .store → step s = exec .store { s with turns := ts }) ∧
    (s.phase = .idle ∨ s.phase = .done → step s = .next { s with turns := ts })

/-- R156: of a RESET and another action delivered together, RESET takes effect and the other is dropped. -/
def Obligations.ResetBeatsAnotherAction : Prop :=
  ∀ (s : State) (q : Request) (ts : List Turn), s.turns = .resetWith q :: ts →
    step s = exec .reset { s with turns := ts }

/-- R85: a START is examined for BUSY first, then for its width, and only then accepted. -/
def Obligations.StartIsExaminedInOrder : Prop :=
  ∀ (s : State) (w : CmdWord) (ts : List Turn), s.turns = .host (.start w) :: ts →
    (s.phase = .seed ∨ s.phase = .div ∨ s.phase = .store → step s = .refused .busy) ∧
    (s.phase = .idle ∨ s.phase = .done →
      (w.toNat / 2 ^ 32 ≠ 8 ∧ w.toNat / 2 ^ 32 ≠ 16 → step s = .refused .illegalWidth) ∧
      (w.toNat / 2 ^ 32 = 8 → step s = .next (acceptStart .w8 (w.toNat % 2 ^ 32) { s with turns := ts })) ∧
      (w.toNat / 2 ^ 32 = 16 → step s = .next (acceptStart .w16 (w.toNat % 2 ^ 32) { s with turns := ts })))

/-- R163: when a step is refused, the reason fits the state and the action, and only a host action is refused. -/
def Obligations.RefusalsHaveTheirReasons : Prop :=
  ∀ (s : State) (r : Refusal), step s = .refused r →
    (∃ w ts, s.turns = .host (.start w) :: ts ∧
      (s.phase.busy = true ∧ r = .busy ∨
        s.phase.busy = false ∧ r = .illegalWidth ∧ widthField w ≠ 8 ∧ widthField w ≠ 16)) ∨
    (∃ idx ts, s.turns = .host (.rdtab idx) :: ts ∧ s.phase ≠ .done ∧ r = .tableNotReady)

/-! ## The host actions -/

/-- R170: RESET completes in every state; it leaves IDLE and no entry written, `STATUS` reads IDLE and RDTAB is refused.
What the six unspecified elements hold is not said. The host's side is as it was. -/
def Obligations.ResetLeavesIdleAndNoTable : Prop :=
  ∀ s : State, ∃ t, exec .reset s = .next t ∧ t.phase = .idle ∧ t.phase.status.code = 0b00#2 ∧
    (∀ j, Memory.read t.table j = none) ∧ (∀ idx, exec (.rdtab idx) t = .refused .tableNotReady) ∧
    t.turns = s.turns ∧ t.replies = s.replies

/-- R36: after reset `PHASE` is IDLE, `STATUS` reads IDLE and every entry is unwritten; the state is one the spec allows
at power-on. -/
def Obligations.ResetStateAsSpecified : Prop :=
  State.reset.phase = .idle ∧ State.reset.phase.status = .idle ∧
    (∀ j, Memory.read State.reset.table j = none) ∧ PowerOn State.reset ∧ Memory.wf State.reset.table ∧
    Sys2Proof.core.reset = State.reset

/-- R30: POLL completes in every phase, returns the status of the table of R30, and changes nothing of the block. -/
def Obligations.PollReturnsStatus : Prop :=
  ∀ s : State, ∃ v : Status, exec .poll s = .next { s with replies := .status v :: s.replies } ∧
    (s.phase = .idle → v = .idle ∧ v.code = 0b00#2) ∧
    (s.phase = .seed ∨ s.phase = .div ∨ s.phase = .store → v = .busy ∧ v.code = 0b01#2) ∧
    (s.phase = .done → v = .done ∧ v.code = 0b10#2)

/-- R83: GEN8 completes in IDLE and DONE, latches the low 8 bits, discards the table, enters SEED, and writes nothing
else; while BUSY it is refused. -/
def Obligations.Gen8StartsARun : Prop :=
  ∀ (p : Nat) (s : State),
    (s.phase = .idle ∨ s.phase = .done → ∃ t, exec (.gen8 p) s = .next t ∧ t.wsel = .w8 ∧
      t.poly.toNat = p % 2 ^ 8 ∧ t.i = 0 ∧ t.k = 0 ∧ (∀ j, Memory.read t.table j = none) ∧ t.phase = .seed ∧
      t = { s with wsel := t.wsel, poly := t.poly, i := t.i, k := t.k, table := t.table, phase := t.phase }) ∧
    (s.phase = .seed ∨ s.phase = .div ∨ s.phase = .store → exec (.gen8 p) s = .refused .busy)

/-- R84: the same of GEN16 with the low 16 bits. -/
def Obligations.Gen16StartsARun : Prop :=
  ∀ (p : Nat) (s : State),
    (s.phase = .idle ∨ s.phase = .done → ∃ t, exec (.gen16 p) s = .next t ∧ t.wsel = .w16 ∧
      t.poly.toNat = p % 2 ^ 16 ∧ t.i = 0 ∧ t.k = 0 ∧ (∀ j, Memory.read t.table j = none) ∧ t.phase = .seed ∧
      t = { s with wsel := t.wsel, poly := t.poly, i := t.i, k := t.k, table := t.table, phase := t.phase }) ∧
    (s.phase = .seed ∨ s.phase = .div ∨ s.phase = .store → exec (.gen16 p) s = .refused .busy)

/-- R64: two polynomials that agree in the low W bits start the same run; the bits above are dropped without a report. -/
def Obligations.HighPolynomialBitsIgnored : Prop :=
  ∀ (p q : Nat) (s : State),
    (p % 2 ^ 8 = q % 2 ^ 8 → exec (.gen8 p) s = exec (.gen8 q) s) ∧
    (p % 2 ^ 16 = q % 2 ^ 16 → exec (.gen16 p) s = exec (.gen16 q) s)

/-- R86, R41, R44: RDTAB completes in DONE on a written entry, returns it zero-extended to 16 bits, and changes nothing
of the block; outside DONE it is refused. On an unwritten entry in DONE, which no run reaches, the model faults
(log 8). -/
def Obligations.RdtabReturnsTheEntry : Prop :=
  ∀ (idx : Byte) (s : State),
    (∀ e, s.phase = .done → Memory.read s.table idx.toNat = some e → ∃ v : Word16,
      exec (.rdtab idx) s = .next { s with replies := .entry v :: s.replies } ∧ v.toNat = e.toNat ∧
        (e.width = .w8 → v.toNat < 2 ^ 8)) ∧
    (s.phase ≠ .done → exec (.rdtab idx) s = .refused .tableNotReady) ∧
    (s.phase = .done → Memory.read s.table idx.toNat = none → exec (.rdtab idx) s = .fault .unwrittenEntry)

/-! ## The micro-operations -/

/-- The effect of R100: `R` is the index, `K` is 0, the phase DIV, and nothing else is written. R100 gives SEED8 where
`USEQ` is 0b0001; that it completes so in every state is the model's (log 14, DEDUCED; log 3: a register always holds a
value). -/
def Obligations.Seed8Result : Prop :=
  decode (.useq 0b0001#4) = .instr .seed8 ∧
  ∀ s : State, ∃ t, exec .seed8 s = .next t ∧ t.r.toNat = s.i.toNat ∧ t.k = 0 ∧ t.phase = .div ∧
    t = { s with r := t.r, k := t.k, phase := t.phase }

/-- The effect of R101: shift `R[7:0]` by one, dropping bit 7, XOR `POLY[7:0]` if bit 7 was set; the eighth round goes
to STORE; nothing else is written. R101 gives DIV8 where `USEQ` is 0b0010; that it completes so in every state, and that
the phase otherwise stays what it is (DIV there), is the model's (log 14, DEDUCED; log 3). -/
def Obligations.Div8Result : Prop :=
  decode (.useq 0b0010#4) = .instr .div8 ∧
  ∀ s : State, ∃ t, exec .div8 s = .next t ∧
    t.r.toNat = (if s.r.toNat / 128 % 2 = 1 then (2 * (s.r.toNat % 256) % 256) ^^^ (s.poly.toNat % 256)
      else 2 * (s.r.toNat % 256) % 256) ∧
    (s.k = 7 → t.k = 0 ∧ t.phase = .store) ∧
    (s.k ≠ 7 → t.k.toNat = s.k.toNat + 1 ∧ t.phase = s.phase) ∧
    t = { s with r := t.r, k := t.k, phase := t.phase }

/-- The effect of R110: `R` is 0, `B` has the index in its high byte, `K` is 0, the phase DIV, and nothing else is
written. R110 gives SEED16 where `USEQ` is 0b1001; that it completes so in every state is the model's (log 14, DEDUCED;
log 3). -/
def Obligations.Seed16Result : Prop :=
  decode (.useq 0b1001#4) = .instr .seed16 ∧
  ∀ s : State, ∃ t, exec .seed16 s = .next t ∧ t.r = 0 ∧ t.b.toNat = s.i.toNat * 256 ∧ t.k = 0 ∧ t.phase = .div ∧
    t = { s with r := t.r, b := t.b, k := t.k, phase := t.phase }

/-- The effect of R111: the carry is bit 15 of `R XOR B` before the shifts; both are shifted by one, and `POLY` is XORed
into `R` if the carry was set; the eighth round goes to STORE; nothing else is written. R111 gives DIV16 where `USEQ` is
0b1010; that it completes so in every state, and that the phase otherwise stays what it is (DIV there), is the model's
(log 14, DEDUCED; log 3). -/
def Obligations.Div16Result : Prop :=
  decode (.useq 0b1010#4) = .instr .div16 ∧
  ∀ s : State, ∃ t, exec .div16 s = .next t ∧
    t.r.toNat = (if (s.r.toNat / 32768 + s.b.toNat / 32768) % 2 = 1 then (2 * s.r.toNat % 65536) ^^^ s.poly.toNat
      else 2 * s.r.toNat % 65536) ∧
    t.b.toNat = 2 * s.b.toNat % 65536 ∧
    (s.k = 7 → t.k = 0 ∧ t.phase = .store) ∧
    (s.k ≠ 7 → t.k.toNat = s.k.toNat + 1 ∧ t.phase = s.phase) ∧
    t = { s with r := t.r, b := t.b, k := t.k, phase := t.phase }

/-- The effect of R120: entry `I` becomes written with the low W bits of `R`, every other entry reads as before; after
entry 255 the run is over and `I` stays, else `I` goes up by one and the phase is SEED; nothing else is written. R120
gives STORE where `PHASE` is STORE; that it completes so in every state is the model's (log 14, DEDUCED; log 3), and that
the entry carries its width is log 9. -/
def Obligations.StoreResult : Prop :=
  (∀ c : UseqCode, c.toNat % 8 = 3 → decode (.useq c) = .instr .store) ∧
  ∀ s : State, ∃ t, exec .store s = .next t ∧
    (s.wsel = .w8 → Memory.read t.table s.i.toNat = some (.w8 (BitVec.ofNat 8 (s.r.toNat % 256)))) ∧
    (s.wsel = .w16 → Memory.read t.table s.i.toNat = some (.w16 s.r)) ∧
    (∀ j, j ≠ s.i.toNat → Memory.read t.table j = Memory.read s.table j) ∧
    (s.i = 255 → t.phase = .done ∧ t.i = 255) ∧
    (s.i ≠ 255 → t.phase = .seed ∧ t.i.toNat = s.i.toNat + 1) ∧
    t = { s with table := t.table, i := t.i, phase := t.phase }

/-- R131: the shift doubles modulo 2^W; the top bit is discarded, every other bit moves up one place, bit 0 is 0. -/
def Obligations.ShiftDropsTheTopBit : Prop :=
  (∀ a : BitVec 8, (shl a).toNat = 2 * a.toNat % 2 ^ 8 ∧ (shl a).getLsbD 0 = false ∧
    ∀ n, n + 1 < 8 → (shl a).getLsbD (n + 1) = a.getLsbD n) ∧
  (∀ a : BitVec 16, (shl a).toNat = 2 * a.toNat % 2 ^ 16 ∧ (shl a).getLsbD 0 = false ∧
    ∀ n, n + 1 < 16 → (shl a).getLsbD (n + 1) = a.getLsbD n)

/-! ## What every step keeps -/

/-- R32, R36: the invariants hold in every state the spec allows at power-on, whatever the unspecified elements hold. -/
def Obligations.PowerOnHasTheInvariants : Prop :=
  (∀ s : State, PowerOn s → Invariants s) ∧ Invariants State.reset

/-- R32: from every state that has the invariants, a step that goes on gives a state that has them. -/
def Obligations.StepKeepsTheInvariants : Prop :=
  ∀ s t : State, Invariants s → step s = .next t → Invariants t

/-- R32: the invariants hold in every state reachable from power-on, under every order of host actions and
micro-steps. `Invariants` says more than R32 (a) to (g): the list form of the table (log 8), the width an entry carries
(log 9), and what `R` and `B` hold in a round (R102, R112). -/
def Obligations.ReachableStatesHaveTheInvariants : Prop :=
  ∀ s : State, Reachable s → Invariants s

/-- R40: every step keeps the table memory in its canonical form, from every state that has it. -/
def Obligations.StepKeepsTheTableCanonical : Prop :=
  ∀ s t : State, Memory.wf s.table → step s = .next t → Memory.wf t.table

/-- R150, R163: no run from power-on ends in a fault. -/
def Obligations.NoRunFaults : Prop :=
  ∀ (s : State) (n : Nat) (f : Fault), PowerOn s → run n s ≠ .fault f

/-- R134: neither counter wraps, in any state: a step other than a RESET leaves `K` and `I`, clears it, or adds one to
the number. In DIV, the only phase whose step counts `K`, it goes to 0 only from 7, and then to STORE; while BUSY `I` is
never cleared. -/
def Obligations.CountersNeverWrap : Prop :=
  ∀ s t : State, step s = .next t → (∀ x ∈ s.turns.head?, x.isReset = false) →
    (t.k = s.k ∨ t.k = 0 ∨ t.k.toNat = s.k.toNat + 1) ∧ (t.i = s.i ∨ t.i = 0 ∨ t.i.toNat = s.i.toNat + 1) ∧
      (s.phase = .div → t.phase = .div ∧ (t.k = s.k ∨ t.k.toNat = s.k.toNat + 1) ∨
        s.k = 7 ∧ t.k = 0 ∧ t.phase = .store) ∧
      (s.phase ≠ .div → t.k = s.k ∨ t.k = 0) ∧
      (s.phase.busy = true → t.i = s.i ∨ t.i.toNat = s.i.toNat + 1)

/-- R27, R28, R177: the width and the polynomial change only by an accepted START or a RESET. -/
def Obligations.LatchesHoldDuringARun : Prop :=
  ∀ s t : State, step s = .next t → (t.wsel ≠ s.wsel ∨ t.poly ≠ s.poly) →
    (∃ x ∈ s.turns.head?, x.isReset = true) ∨
    (∃ w ts, s.turns = .host (.start w) :: ts ∧ s.phase.busy = false ∧ t.phase = .seed)

/-- R22, U8: no step of a width-8 run writes `B`, RESET apart. -/
def Obligations.Width8RunLeavesTheShadow : Prop :=
  ∀ s t : State, step s = .next t → s.wsel = .w8 → (∀ x ∈ s.turns.head?, x.isReset = false) → t.b = s.b

/-- R44, R46: while BUSY, RESET apart, the only entry a step can change is entry `I`, and only in STORE. -/
def Obligations.OnlyStoreWritesTheTable : Prop :=
  ∀ (s t : State) (j : Nat), step s = .next t → s.phase.busy = true →
    (∀ x ∈ s.turns.head?, x.isReset = false) → Memory.read t.table j ≠ Memory.read s.table j →
    s.phase = .store ∧ j = s.i.toNat

/-- R120, R173: the only step that comes to DONE is the STORE of entry 255. -/
def Obligations.OnlyTheLastStoreReachesDone : Prop :=
  ∀ s t : State, step s = .next t → s.phase ≠ .done → t.phase = .done →
    s.phase = .store ∧ s.i = 255 ∧ t.i = 255 ∧ Memory.read t.table 255 = some (entryOf s.wsel s.r)

/-- R52, R31, R173: in DONE a step leaves the whole block as it is, unless the host issues a RESET or a START of a legal
width. -/
def Obligations.TableConstantWhileDone : Prop :=
  ∀ s t : State, s.phase = .done → step s = .next t →
    t = { s with turns := t.turns, replies := t.replies } ∨
    (∃ x ∈ s.turns.head?, x.isReset = true) ∨
    (∃ w ts, s.turns = .host (.start w) :: ts ∧ (widthField w = 8 ∨ widthField w = 16))

/-! ## Runs -/

/-- R125, R88, R85, R86: during a run a host action other than RESET leaves the block as it is: POLL returns BUSY, START
and RDTAB are refused, and the run goes on. -/
def Obligations.HostCannotTouchARun : Prop :=
  ∀ (s : State) (rs : List Refusal) (q : Request) (ts : List Turn),
    s.phase.busy = true → s.turns = .host q :: ts →
    (q = .poll → hwStep ⟨s, rs⟩ = .next ⟨{ s with turns := ts, replies := .status .busy :: s.replies }, rs⟩) ∧
    (∀ w, q = .start w → hwStep ⟨s, rs⟩ = .next ⟨{ s with turns := ts }, .busy :: rs⟩) ∧
    (∀ idx, q = .rdtab idx → hwStep ⟨s, rs⟩ = .next ⟨{ s with turns := ts }, .tableNotReady :: rs⟩)

/-- R89, R173: left to the sequencer, every BUSY state, reached or not, comes to DONE in the number of micro-steps that
`remaining` gives, at most 2560, and is BUSY until then. -/
def Obligations.EveryRunComesToDone : Prop :=
  ∀ s : State, s.phase.busy = true → s.turns = [] → remaining s ≤ 2560 ∧
    (∃ t, run (remaining s) s = .next t ∧ t.phase = .done) ∧
    ∀ m, m < remaining s → ∃ u, run m s = .next u ∧ u.phase.busy = true

/-- R122 to R124: the shape of a run. Micro-step 10·i + 1 is the SEED of entry i, the next eight its rounds, and
10·i + 10 its STORE, after which entries 0 to i are written and no others. -/
def Obligations.ShapeOfARun : Prop :=
  ∀ s : State, s.phase = .seed → s.i = 0 → s.k = 0 → (∀ j, Memory.read s.table j = none) → s.turns = [] →
    ∀ i, i < 256 →
      (∀ k, k ≤ 8 → ∃ u, run (10 * i + 1 + k) s = .next u ∧ u.i.toNat = i ∧
        (k < 8 → u.phase = .div ∧ u.k.toNat = k) ∧ (k = 8 → u.phase = .store ∧ u.k = 0)) ∧
      ∃ u, run (10 * i + 10) s = .next u ∧
        (∀ j, j < 256 → ((Memory.read u.table j).isSome = true ↔ j ≤ i)) ∧
        (i < 255 → u.phase = .seed ∧ u.i.toNat = i + 1) ∧ (i = 255 → u.phase = .done ∧ u.i = 255)

/-- R127: a START of a legal width accepted in IDLE or DONE, and 2560 micro-steps with any host actions but RESET
between them, end in DONE with the table of `generate`; the only refusals are of the host's STARTs and RDTABs. -/
def Obligations.AcceptedStartBuildsTheTable : Prop :=
  ∀ (s : State) (rs : List Refusal) (w : Width) (cmd : CmdWord) (ts rest : List Turn),
    s.phase.busy = false → cmd.toNat / 2 ^ 32 = w.bits → s.turns = .host (.start cmd) :: ts ++ .seq :: rest →
    seqTurns ts = 2559 → (∀ x ∈ ts, x.isReset = false) →
    ∃ (m : Marked) (T : List Nat), hwRun (ts.length + 2) ⟨s, rs⟩ = .next m ∧
      generate w.bits (cmd.toNat % 2 ^ 32) = some T ∧ T.length = 256 ∧
      m.state.phase = .done ∧ m.state.wsel = w ∧ m.state.poly.toNat = cmd.toNat % 2 ^ 32 % 2 ^ w.bits ∧
      m.state.i = 255 ∧ m.state.k = 0 ∧ m.state.turns = rest ∧
      (∀ j, j < 256 → (Memory.read m.state.table j).map Entry.toNat = T[j]?) ∧
      some m.state.r.toNat = T[255]? ∧ (w = .w16 → m.state.b = 0) ∧
      m.refusals.length = rs.length + ts.countP fun x => !x.isSeq && !x.isPoll

/-- R37, R182, R36: what the host sees of a run does not depend on what `WSEL`, `POLY`, `R`, `B`, `I` and `K` held
before it. -/
def Obligations.RunIgnoresUnspecifiedElements : Prop :=
  ∀ (n : Nat) (s t : State), s.phase.busy = false → s.phase = t.phase → s.table = t.table → s.turns = t.turns →
    s.replies = t.replies → sameOutcome (run n s) (run n t)

/-- R135, R87: two commands of the same width whose polynomials agree in the low W bits end with the same table,
whatever the states they were issued in. -/
def Obligations.SameCommandSameTable : Prop :=
  ∀ (s t : State) (w : Width) (c d : CmdWord), s.phase.busy = false → t.phase.busy = false →
    s.turns = [.host (.start c)] → t.turns = [.host (.start d)] →
    c.toNat / 2 ^ 32 = w.bits → d.toNat / 2 ^ 32 = w.bits → c.toNat % 2 ^ w.bits = d.toNat % 2 ^ w.bits →
    ∃ s' t', run 2561 s = .next s' ∧ run 2561 t = .next t' ∧ s'.phase = .done ∧ t'.phase = .done ∧
      s'.table = t'.table

/-- R48, R81, R82: in a state with the invariants, DONE, RDTAB returns the entry of `generate` for the latched width and
polynomial. -/
def Obligations.RdtabReturnsTheContract : Prop :=
  ∀ (s : State) (idx : Byte), Invariants s → s.phase = .done → ∃ (T : List Nat) (v : Word16),
    generate s.wsel.bits s.poly.toNat = some T ∧ T[idx.toNat]? = some v.toNat ∧
      exec (.rdtab idx) s = .next { s with replies := .entry v :: s.replies }

/-- R172, R73: from any state whatever, the boot program gives the host DONE and then the 256 entries of `generate` in
index order; the POLLs before the one that returns DONE return BUSY. How many micro-steps precede each POLL is open
(log 23), but they must be enough for the run: a list that adds up to fewer than 2560 leaves the WAIT unfinished. -/
def Obligations.BootDeliversTheTable : Prop :=
  ∀ (s : State) (w : Width) (p : BitVec 32) (gaps : List Nat),
    (2560 ≤ gaps.sum → ∃ ts, programTurns (bootProgram gaps (BitVec.ofNat 8 w.bits) p) s = some ts ∧
      ∀ rest, ∃ (t : State) (T : List Nat) (n : Nat), run ts.length { s with turns := ts ++ rest } = .next t ∧
        generate w.bits p.toNat = some T ∧ t.turns = rest ∧ t.phase = .done ∧ ts.countP Turn.isPoll = n + 1 ∧
        t.replies = (T.map fun v => Reply.entry (BitVec.ofNat 16 v)).reverse ++
          .status .done :: (List.replicate n (.status .busy) ++ s.replies)) ∧
    (gaps.sum < 2560 → programTurns (bootProgram gaps (BitVec.ofNat 8 w.bits) p) s = none)

/-- R35, R161: a step of one instance leaves the others as they are, is the step of a single block, and steps of two
instances commute. -/
def Obligations.InstancesAreIndependent : Prop :=
  ∀ (k l : Nat) (ms ns : List State), k ≠ l → stepInstance k ms = .next ns →
    ns.length = ms.length ∧ ns[l]? = ms[l]? ∧
    (∀ s, ms[k]? = some s → ∃ t, step s = .next t ∧ ns[k]? = some t) ∧
    (∀ ns', stepInstance l ms = .next ns' → ∃ os, stepInstance l ns = .next os ∧ stepInstance k ns' = .next os)

/-! ## The table (level L0) -/

/-- R80, R136, R138: `generate` is defined for the widths 8 and 16 and no other, has 256 entries, each within the
width. -/
def Obligations.GenerateIsTotalOnItsWidths : Prop :=
  ∀ w p : Nat,
    (w = 8 ∨ w = 16 → ∃ T, generate w p = some T ∧ T.length = 256 ∧ ∀ e ∈ T, e < 2 ^ w) ∧
    (w ≠ 8 → w ≠ 16 → generate w p = none)

/-- R137: entry 0 is 0, for both widths and every polynomial. -/
def Obligations.EntryZeroIsZero : Prop :=
  ∀ p : Nat, T8entry p 0 = 0 ∧ T16entry p 0 = 0

/-- R139: entry 1 is the polynomial, and the entries at the powers of two follow by doubling, for both widths. -/
def Obligations.EntryOneIsThePolynomial : Prop :=
  ∀ (w : Width) (p : Nat), p < 2 ^ w.bits → tableEntry w p 1 = p ∧
    ∀ k, k < 7 → tableEntry w p (2 ^ (k + 1)) =
      (2 * tableEntry w p (2 ^ k) % 2 ^ w.bits) ^^^ (if (tableEntry w p (2 ^ k)).testBit (w.bits - 1) then p else 0)

/-- R140: the table is linear over XOR in the index. -/
def Obligations.TableIsLinear : Prop :=
  ∀ (w : Width) (p i j : Nat), p < 2 ^ w.bits → i < 256 → j < 256 →
    tableEntry w p (i ^^^ j) = tableEntry w p i ^^^ tableEntry w p j

/-- R141: `r XOR b` obeys the plain round; from `r = 0` eight shadow rounds of a seed whose low `W-8` bits are zero are
eight plain rounds of it, and `b` ends at zero; so (a) `T16` is the plain form from `i << 8`, and (b) `T8` is the shadow
form from `b = i`. -/
def Obligations.ShadowFormEqualsPlainForm : Prop :=
  (∀ w p r b : Nat, 0 < w → p < 2 ^ w → r < 2 ^ w → b < 2 ^ w →
    (shadowRound w p (r, b)).1 ^^^ (shadowRound w p (r, b)).2 = plainRound w p (r ^^^ b)) ∧
  (∀ w p s : Nat, 8 ≤ w → p < 2 ^ w → s < 2 ^ w → s % 2 ^ (w - 8) = 0 →
    shadowRounds w p 8 (0, s) = (plainRounds w p 8 s, 0)) ∧
  (∀ p i : Nat, p < 2 ^ 16 → i < 256 → T16entry p i = plainRounds 16 p 8 (i * 2 ^ 8)) ∧
  (∀ p i : Nat, p < 2 ^ 8 → i < 256 → T8entry p i = (shadowRounds 8 p 8 (0, i)).1)

/-- R126: the one generic routine builds the same tables as the two procedures. -/
def Obligations.GenericRoutineBuildsTheSameTables : Prop :=
  ∀ (w : Width) (polynomial : Nat), generate w.bits polynomial =
    some ((List.range 256).map (genericEntry w.bits (polynomial % 2 ^ w.bits)))

/-- R144: for every message and start value the table-driven CRC equals the bit-serial one, for both widths. -/
def Obligations.TableDrivenCrcEqualsBitSerial : Prop :=
  (∀ (p init : Nat) (msg : List Nat), p < 2 ^ 8 → init < 2 ^ 8 → (∀ m ∈ msg, m < 256) →
    crcTable8 (T8 p) init msg = crcSerial8 p init msg) ∧
  (∀ (p init : Nat) (msg : List Nat), p < 2 ^ 16 → init < 2 ^ 16 → (∀ m ∈ msg, m < 256) →
    crcTable16 (T16 p) init msg = crcSerial16 p init msg)

/-- R145: the tables of two distinct nonzero polynomials of a width differ at an entry other than entry 0. -/
def Obligations.DistinctPolynomialsDistinctTables : Prop :=
  ∀ (w : Width) (p q : Nat), p < 2 ^ w.bits → q < 2 ^ w.bits → p ≠ 0 → q ≠ 0 → p ≠ q →
    ∃ i, 0 < i ∧ i < 256 ∧ tableEntry w p i ≠ tableEntry w q i

/-- R146: the zero polynomial's tables are zero everywhere. -/
def Obligations.ZeroPolynomialZeroTable : Prop :=
  ∀ i, i < 256 → T8entry 0 i = 0 ∧ T16entry 0 i = 0

/-- R142, C2: the width-8 table of 0x9B has 0x7B at entry 255 and 0x8C at entry 248. -/
def Obligations.KnownVectorWidth8 : Prop :=
  ∃ T, generate 8 0x9B = some T ∧ T[0]? = some 0x00 ∧ T[1]? = some 0x9B ∧ T[248]? = some 0x8C ∧ T[255]? = some 0x7B

/-- R143: the table of 0x1021 in the update loop gives 0x31C3 on "123456789" from 0x0000, and 0x29B1 from 0xFFFF. -/
def Obligations.CheckValuesWidth16 : Prop :=
  ∃ T, generate 16 0x1021 = some T ∧ T[0]? = some 0x0000 ∧
    crcTable16 T 0x0000 [0x31, 0x32, 0x33, 0x34, 0x35, 0x36, 0x37, 0x38, 0x39] = 0x31C3 ∧
    crcTable16 T 0xFFFF [0x31, 0x32, 0x33, 0x34, 0x35, 0x36, 0x37, 0x38, 0x39] = 0x29B1

/-! ## The notation of programs, and instances that go on -/

/-- R72, R73: WAIT is POLL repeated until it returns DONE. From every state its turns are micro-steps and POLLs, they end
with a POLL that returns DONE, and every POLL before that one returns BUSY; WAIT is over exactly when the micro-steps the
list allows (log 23) are enough for the run and there is a POLL; in IDLE it is never over. -/
def Obligations.WaitPollsUntilDone : Prop :=
  ∀ (s : State) (gaps : List Nat),
    (s.phase = .idle → (Pseudo.wait gaps).turns s = none) ∧
    (s.phase ≠ .idle → (((Pseudo.wait gaps).turns s).isSome = true ↔ gaps ≠ [] ∧ remaining s ≤ gaps.sum)) ∧
    ∀ ts, (Pseudo.wait gaps).turns s = some ts → (∀ x ∈ ts, x = .seq ∨ x = .host .poll) ∧
      ∀ rest, ∃ (t : State) (n : Nat), run ts.length { s with turns := ts ++ rest } = .next t ∧ t.turns = rest ∧
        t.phase = .done ∧ ts.countP Turn.isPoll = n + 1 ∧
        t.replies = .status .done :: (List.replicate n (.status .busy) ++ s.replies)

/-- R35, R161, R163: for the hardware as decided, a refused action of one instance is ignored and marked in that instance
alone, and the others are as they were. That no refusal ends the joint step of this form is log 25. -/
def Obligations.InstancesGoOnPastARefusal : Prop :=
  ∀ (k : Nat) (ms : List Marked),
    (∀ r, hwStepInstance k ms ≠ .refused r) ∧
    (∀ m r, ms[k]? = some m → step m.state = .refused r →
      ∃ ns, hwStepInstance k ms = .next ns ∧ ns[k]? = some ⟨{ m.state with turns := m.state.turns.tail }, r :: m.refusals⟩) ∧
    (∀ ns, hwStepInstance k ms = .next ns → ns.length = ms.length ∧ ∀ l, l ≠ k → ns[l]? = ms[l]?)
end

