-- ==== Sys2Proof/Laws/Arith.lean ====
section
/-! SUPPORT. What the operators on data do, as arithmetic on numbers (spec/00_scope.md R8, spec/44_table_laws.md R131),
and that a round of the machine is a round of the contract. -/

namespace Sys2Proof.Machine

@[simp] theorem toNat_shl {n : Nat} (a : BitVec n) : (shl a).toNat = 2 * a.toNat % 2 ^ n := by
  simp [shl, Nat.shiftLeft_eq, Nat.mul_comm]

@[simp] theorem toNat_zext16 (a : BitVec 8) : (zext16 a).toNat = a.toNat := by
  have := a.isLt
  simp only [zext16, BitVec.toNat_setWidth]
  omega

@[simp] theorem toNat_low8 (v : Word16) : (low8 v).toNat = v.toNat % 2 ^ 8 := by
  simp [low8]

@[simp] theorem toNat_polyOperand (w : Width) (p : Nat) : (polyOperand w p).toNat = truncW w p := by
  cases w <;> simp [polyOperand, truncW, Width.bits]

@[simp] theorem toNat_seedLow (i : Byte) : (seedLow i).toNat = i.toNat := toNat_zext16 i

@[simp] theorem toNat_seedHigh (i : Byte) : (seedHigh i).toNat = i.toNat * 2 ^ 8 := by
  refine (BitVec.toNat_append i 0x00#8).trans ?_
  simp [Nat.shiftLeft_eq]

@[simp] theorem width_entryOf (w : Width) (r : Word16) : (entryOf w r).width = w := by
  cases w <;> rfl

/-- STORE drops no bit of a register that is within the width (R120). -/
theorem toNat_entryOf (w : Width) (r : Word16) : (entryOf w r).toNat = r.toNat % 2 ^ w.bits := by
  have := r.isLt
  cases w <;> simp [entryOf, Entry.toNat, Width.bits]
  omega

@[simp] theorem toNat_portValue (e : Entry) : (portValue e).toNat = e.toNat := by
  cases e <;> simp [portValue, Entry.toNat]

theorem carry8_eq_testBit (r : BitVec 8) : carry8 r = r.toNat.testBit 7 := rfl

theorem carry16_eq_testBit (r b : Word16) : carry16 r b = (r.toNat ^^^ b.toNat).testBit 15 := by
  simp [carry16, BitVec.getLsbD]

/-- A width-8 round is a round of R81. -/
theorem toNat_round8 (p r : BitVec 8) : (round8 p r).toNat = next8 p.toNat r.toNat := by
  unfold round8 next8
  rw [carry8_eq_testBit]
  split <;> simp

/-- A width-16 round is a round of R82. -/
theorem toNat_round16 (p r b : Word16) :
    ((round16 p r b).toNat, (shl b).toNat) = next16 p.toNat (r.toNat, b.toNat) := by
  unfold round16 next16
  rw [carry16_eq_testBit]
  split <;> simp

end Sys2Proof.Machine
end

