-- ==== Sys2Proof/Laws/Decode.lean ====
section
/-! SUPPORT. The fields of a command word as numbers, and its parts put together and taken apart again (R62). -/

namespace Sys2Proof

/-- `WIDTH` is the word divided by 2^32 (R62). -/
theorem toNat_widthField (w : CmdWord) : (widthField w).toNat = w.toNat / 2 ^ 32 := by
  have := w.isLt
  simp only [widthField, BitVec.extractLsb'_toNat, Nat.shiftRight_eq_div_pow]
  omega

/-- `POLYIN` is the word modulo 2^32 (R62). -/
theorem toNat_polyField (w : CmdWord) : (polyField w).toNat = w.toNat % 2 ^ 32 := by
  simp [polyField]

theorem toNat_cmdWord (a : Byte) (p : BitVec 32) : (cmdWord a p).toNat = a.toNat * 2 ^ 32 + p.toNat := by
  have := p.isLt
  refine (BitVec.toNat_append a p).trans ?_
  rw [Nat.shiftLeft_eq, Nat.mul_comm, ← Nat.two_pow_add_eq_or_of_lt this]

@[simp] theorem widthField_cmdWord (a : Byte) (p : BitVec 32) : widthField (cmdWord a p) = a := by
  apply BitVec.eq_of_toNat_eq
  have := p.isLt
  rw [toNat_widthField, toNat_cmdWord]
  omega

@[simp] theorem polyField_cmdWord (a : Byte) (p : BitVec 32) : polyField (cmdWord a p) = p := by
  apply BitVec.eq_of_toNat_eq
  have := p.isLt
  rw [toNat_polyField, toNat_cmdWord]
  omega

/-- A command word is its two fields. -/
theorem cmdWord_fields (w : CmdWord) : cmdWord (widthField w) (polyField w) = w := by
  apply BitVec.eq_of_toNat_eq
  rw [toNat_cmdWord, toNat_widthField, toNat_polyField]
  omega

/-- A well-formed polynomial is kept whole by the polynomial field (R62). -/
theorem toNat_ofNat_polyIn {p : Nat} (h : polyInFits p = true) : (BitVec.ofNat 32 p).toNat = p := by
  have h' : p < 2 ^ 32 := of_decide_eq_true h
  simp only [BitVec.toNat_ofNat]
  omega

/-- The rows of the operation map share no code (R61, R68). -/
theorem opRows_disjoint : opRows.Pairwise (fun a b => a.disjoint b = true) := by decide

end Sys2Proof
end

