-- ==== Sys2Proof/Laws/Memory.lean ====
section
/-! SUPPORT. The laws of the table memory (spec/20_memory.md R44): a read after a write, and the canonical form that every
operation keeps. -/

namespace Sys2Proof.Machine

@[simp] theorem Memory.read_nil (i : Nat) : Memory.read [] i = none := rfl

@[simp] theorem Memory.read_unwritten (i : Nat) : Memory.read Memory.unwritten i = none := rfl

@[simp] theorem Memory.read_cons (j : Nat) (e : Entry) (m : Memory) (i : Nat) :
    Memory.read ((j, e) :: m) i = if j = i then some e else Memory.read m i := rfl

/-- Reading the entry just written gives the value written. -/
@[simp] theorem Memory.read_write_same (m : Memory) (i : Nat) (e : Entry) :
    Memory.read (Memory.write m i e) i = some e := by
  induction m with
  | nil => simp [Memory.write]
  | cons c m ih =>
    obtain ⟨j, f⟩ := c
    unfold Memory.write
    split
    · simp
    · split
      · simp
      · have hne : j ≠ i := fun h => by omega
        simp [hne, ih]

/-- A write changes no other entry. -/
theorem Memory.read_write_other (m : Memory) (i j : Nat) (e : Entry) (h : j ≠ i) :
    Memory.read (Memory.write m i e) j = Memory.read m j := by
  induction m with
  | nil => simp [Memory.write, Ne.symm h]
  | cons c m ih =>
    obtain ⟨n, f⟩ := c
    unfold Memory.write
    split
    · simp [Ne.symm h]
    · split
      · rename_i hin
        subst hin
        simp [Ne.symm h]
      · simp [ih]

/-- The indices of a written memory are the old ones and the one written. -/
theorem Memory.mem_write (m : Memory) (i : Nat) (e : Entry) (c : Nat × Entry) (h : c ∈ Memory.write m i e) :
    c = (i, e) ∨ c ∈ m := by
  induction m with
  | nil => exact .inl (by simpa [Memory.write] using h)
  | cons d m ih =>
    obtain ⟨j, f⟩ := d
    unfold Memory.write at h
    split at h
    · simpa using h
    · split at h
      · rcases List.mem_cons.mp h with h | h
        · exact .inl h
        · exact .inr (List.mem_cons_of_mem _ h)
      · rcases List.mem_cons.mp h with h | h
        · exact .inr (by simp [h])
        · exact (ih h).imp id (List.mem_cons_of_mem _)

theorem Memory.wf_unwritten : Memory.wf Memory.unwritten := by
  simp [Memory.wf, Memory.unwritten]

/-- A write at an index of the address space keeps the canonical form. -/
theorem Memory.wf_write (m : Memory) (i : Nat) (e : Entry) (hm : Memory.wf m) (hi : i < Config.nEntries) :
    Memory.wf (Memory.write m i e) := by
  refine ⟨?_, fun c hc => ?_⟩
  · obtain ⟨hp, -⟩ := hm
    induction m with
    | nil => simp [Memory.write]
    | cons c m ih =>
      obtain ⟨j, f⟩ := c
      rw [List.pairwise_cons] at hp
      obtain ⟨hj, hp⟩ := hp
      unfold Memory.write
      split
      · rename_i hij
        refine List.pairwise_cons.mpr ⟨fun d hd => ?_, List.pairwise_cons.mpr ⟨hj, hp⟩⟩
        rcases List.mem_cons.mp hd with rfl | hd
        · exact hij
        · exact Nat.lt_trans hij (hj d hd)
      · split
        · rename_i hij
          subst hij
          exact List.pairwise_cons.mpr ⟨hj, hp⟩
        · refine List.pairwise_cons.mpr ⟨fun d hd => ?_, ih hp⟩
          rcases Memory.mem_write m i e d hd with rfl | hd
          · show j < i
            omega
          · exact hj d hd
  · rcases Memory.mem_write m i e c hc with rfl | hc
    · exact hi
    · exact hm.2 c hc

/-- A memory in canonical form is given by what it reads: equal memories are equal data. -/
theorem Memory.ext_read (m n : Memory) (hm : Memory.wf m) (hn : Memory.wf n)
    (h : ∀ i, Memory.read m i = Memory.read n i) : m = n := by
  have low : ∀ (m : Memory) (i : Nat), (∀ c ∈ m, i < c.1) → Memory.read m i = none := by
    intro m i hc
    induction m with
    | nil => rfl
    | cons c m ih =>
      obtain ⟨j, e⟩ := c
      have hji : i < j := hc (j, e) (by simp)
      have hne : j ≠ i := by omega
      simp [hne, ih fun c hcm => hc c (List.mem_cons_of_mem _ hcm)]
  obtain ⟨hm, -⟩ := hm
  obtain ⟨hn, -⟩ := hn
  induction m generalizing n with
  | nil =>
    cases n with
    | nil => rfl
    | cons d n =>
      have := h d.1
      simp [Memory.read] at this
  | cons c m ih =>
    obtain ⟨j, e⟩ := c
    rw [List.pairwise_cons] at hm
    cases n with
    | nil =>
      have := h j
      simp at this
    | cons d n =>
      obtain ⟨l, f⟩ := d
      rw [List.pairwise_cons] at hn
      have hjl : j = l := by
        rcases Nat.lt_trichotomy j l with hlt | heq | hgt
        · have hj := h j
          have hne : l ≠ j := by omega
          simp [hne, low n j fun c hc => Nat.lt_trans hlt (hn.1 c hc)] at hj
        · exact heq
        · have hl := h l
          have hne : j ≠ l := by omega
          simp [hne, low m l fun c hc => Nat.lt_trans hgt (hm.1 c hc)] at hl
      subst hjl
      have hef : e = f := by simpa using h j
      subst hef
      refine congrArg _ (ih n (fun i => ?_) hm.2 hn.2)
      by_cases hij : j = i
      · subst hij
        rw [low m j hm.1, low n j hn.1]
      · simpa [hij] using h i

end Sys2Proof.Machine
end

