-- ==== Sys2Proof/Laws/State.lean ====
section
/-! SUPPORT. One lemma per field per named update of the state, so that no later proof unfolds one. -/

namespace Sys2Proof.Machine

/-! ## returnToHost: a value goes to the host -/

@[simp] theorem returnToHost_phase (v : Reply) (s : State) : (returnToHost v s).phase = s.phase := rfl
@[simp] theorem returnToHost_wsel (v : Reply) (s : State) : (returnToHost v s).wsel = s.wsel := rfl
@[simp] theorem returnToHost_poly (v : Reply) (s : State) : (returnToHost v s).poly = s.poly := rfl
@[simp] theorem returnToHost_r (v : Reply) (s : State) : (returnToHost v s).r = s.r := rfl
@[simp] theorem returnToHost_b (v : Reply) (s : State) : (returnToHost v s).b = s.b := rfl
@[simp] theorem returnToHost_i (v : Reply) (s : State) : (returnToHost v s).i = s.i := rfl
@[simp] theorem returnToHost_k (v : Reply) (s : State) : (returnToHost v s).k = s.k := rfl
@[simp] theorem returnToHost_table (v : Reply) (s : State) : (returnToHost v s).table = s.table := rfl
@[simp] theorem returnToHost_turns (v : Reply) (s : State) : (returnToHost v s).turns = s.turns := rfl
@[simp] theorem returnToHost_replies (v : Reply) (s : State) : (returnToHost v s).replies = v :: s.replies := rfl
@[simp] theorem returnToHost_draws (v : Reply) (s : State) : (returnToHost v s).draws = s.draws := rfl

/-! ## dropTurn: the next turn is over -/

@[simp] theorem dropTurn_phase (s : State) : (dropTurn s).phase = s.phase := rfl
@[simp] theorem dropTurn_wsel (s : State) : (dropTurn s).wsel = s.wsel := rfl
@[simp] theorem dropTurn_poly (s : State) : (dropTurn s).poly = s.poly := rfl
@[simp] theorem dropTurn_r (s : State) : (dropTurn s).r = s.r := rfl
@[simp] theorem dropTurn_b (s : State) : (dropTurn s).b = s.b := rfl
@[simp] theorem dropTurn_i (s : State) : (dropTurn s).i = s.i := rfl
@[simp] theorem dropTurn_k (s : State) : (dropTurn s).k = s.k := rfl
@[simp] theorem dropTurn_table (s : State) : (dropTurn s).table = s.table := rfl
@[simp] theorem dropTurn_turns (s : State) : (dropTurn s).turns = s.turns.tail := rfl
@[simp] theorem dropTurn_replies (s : State) : (dropTurn s).replies = s.replies := rfl
@[simp] theorem dropTurn_draws (s : State) : (dropTurn s).draws = s.draws := rfl

/-! ## acceptStart: an accepted START -/

@[simp] theorem acceptStart_phase (w : Width) (p : Nat) (s : State) : (acceptStart w p s).phase = .seed := rfl
@[simp] theorem acceptStart_wsel (w : Width) (p : Nat) (s : State) : (acceptStart w p s).wsel = w := rfl
@[simp] theorem acceptStart_poly (w : Width) (p : Nat) (s : State) : (acceptStart w p s).poly = polyOperand w p := rfl
@[simp] theorem acceptStart_r (w : Width) (p : Nat) (s : State) : (acceptStart w p s).r = s.r := rfl
@[simp] theorem acceptStart_b (w : Width) (p : Nat) (s : State) : (acceptStart w p s).b = s.b := rfl
@[simp] theorem acceptStart_i (w : Width) (p : Nat) (s : State) : (acceptStart w p s).i = 0 := rfl
@[simp] theorem acceptStart_k (w : Width) (p : Nat) (s : State) : (acceptStart w p s).k = 0 := rfl
@[simp] theorem acceptStart_table (w : Width) (p : Nat) (s : State) : (acceptStart w p s).table = [] := rfl
@[simp] theorem acceptStart_turns (w : Width) (p : Nat) (s : State) : (acceptStart w p s).turns = s.turns := rfl
@[simp] theorem acceptStart_replies (w : Width) (p : Nat) (s : State) : (acceptStart w p s).replies = s.replies := rfl
@[simp] theorem acceptStart_draws (w : Width) (p : Nat) (s : State) : (acceptStart w p s).draws = s.draws := rfl

/-! ## resetBlock: RESET -/

@[simp] theorem resetBlock_phase (s : State) : (resetBlock s).phase = .idle := rfl
@[simp] theorem resetBlock_wsel (s : State) : (resetBlock s).wsel = Width.ofCode (Config.freeWsel s.draws) := rfl
@[simp] theorem resetBlock_poly (s : State) : (resetBlock s).poly = Config.freePoly s.draws := rfl
@[simp] theorem resetBlock_r (s : State) : (resetBlock s).r = Config.freeR s.draws := rfl
@[simp] theorem resetBlock_b (s : State) : (resetBlock s).b = Config.freeB s.draws := rfl
@[simp] theorem resetBlock_i (s : State) : (resetBlock s).i = Config.freeI s.draws := rfl
@[simp] theorem resetBlock_k (s : State) : (resetBlock s).k = Config.freeK s.draws := rfl
@[simp] theorem resetBlock_table (s : State) : (resetBlock s).table = [] := rfl
@[simp] theorem resetBlock_turns (s : State) : (resetBlock s).turns = s.turns := rfl
@[simp] theorem resetBlock_replies (s : State) : (resetBlock s).replies = s.replies := rfl
@[simp] theorem resetBlock_draws (s : State) : (resetBlock s).draws = s.draws + 1 := rfl

/-! ## enterDiv: the end of a SEED step -/

@[simp] theorem enterDiv_phase (s : State) : (enterDiv s).phase = .div := rfl
@[simp] theorem enterDiv_wsel (s : State) : (enterDiv s).wsel = s.wsel := rfl
@[simp] theorem enterDiv_poly (s : State) : (enterDiv s).poly = s.poly := rfl
@[simp] theorem enterDiv_r (s : State) : (enterDiv s).r = s.r := rfl
@[simp] theorem enterDiv_b (s : State) : (enterDiv s).b = s.b := rfl
@[simp] theorem enterDiv_i (s : State) : (enterDiv s).i = s.i := rfl
@[simp] theorem enterDiv_k (s : State) : (enterDiv s).k = 0 := rfl
@[simp] theorem enterDiv_table (s : State) : (enterDiv s).table = s.table := rfl
@[simp] theorem enterDiv_turns (s : State) : (enterDiv s).turns = s.turns := rfl
@[simp] theorem enterDiv_replies (s : State) : (enterDiv s).replies = s.replies := rfl
@[simp] theorem enterDiv_draws (s : State) : (enterDiv s).draws = s.draws := rfl

/-! ## countRound: the end of a DIV step -/

theorem countRound_phase (s : State) : (countRound s).phase = if s.k = 7 then .store else s.phase := by
  unfold countRound; split <;> rfl
@[simp] theorem countRound_wsel (s : State) : (countRound s).wsel = s.wsel := by
  unfold countRound; split <;> rfl
@[simp] theorem countRound_poly (s : State) : (countRound s).poly = s.poly := by
  unfold countRound; split <;> rfl
@[simp] theorem countRound_r (s : State) : (countRound s).r = s.r := by
  unfold countRound; split <;> rfl
@[simp] theorem countRound_b (s : State) : (countRound s).b = s.b := by
  unfold countRound; split <;> rfl
@[simp] theorem countRound_i (s : State) : (countRound s).i = s.i := by
  unfold countRound; split <;> rfl
theorem countRound_k (s : State) : (countRound s).k = if s.k = 7 then 0 else s.k + 1 := by
  unfold countRound; split <;> rfl
@[simp] theorem countRound_table (s : State) : (countRound s).table = s.table := by
  unfold countRound; split <;> rfl
@[simp] theorem countRound_turns (s : State) : (countRound s).turns = s.turns := by
  unfold countRound; split <;> rfl
@[simp] theorem countRound_replies (s : State) : (countRound s).replies = s.replies := by
  unfold countRound; split <;> rfl
@[simp] theorem countRound_draws (s : State) : (countRound s).draws = s.draws := by
  unfold countRound; split <;> rfl

/-! ## nextEntry: the end of a STORE step -/

theorem nextEntry_phase (s : State) : (nextEntry s).phase = if s.i = 255 then .done else .seed := by
  unfold nextEntry; split <;> rfl
@[simp] theorem nextEntry_wsel (s : State) : (nextEntry s).wsel = s.wsel := by
  unfold nextEntry; split <;> rfl
@[simp] theorem nextEntry_poly (s : State) : (nextEntry s).poly = s.poly := by
  unfold nextEntry; split <;> rfl
@[simp] theorem nextEntry_r (s : State) : (nextEntry s).r = s.r := by
  unfold nextEntry; split <;> rfl
@[simp] theorem nextEntry_b (s : State) : (nextEntry s).b = s.b := by
  unfold nextEntry; split <;> rfl
theorem nextEntry_i (s : State) : (nextEntry s).i = if s.i = 255 then s.i else s.i + 1 := by
  unfold nextEntry; split <;> rfl
@[simp] theorem nextEntry_k (s : State) : (nextEntry s).k = s.k := by
  unfold nextEntry; split <;> rfl
@[simp] theorem nextEntry_table (s : State) : (nextEntry s).table = s.table := by
  unfold nextEntry; split <;> rfl
@[simp] theorem nextEntry_turns (s : State) : (nextEntry s).turns = s.turns := by
  unfold nextEntry; split <;> rfl
@[simp] theorem nextEntry_replies (s : State) : (nextEntry s).replies = s.replies := by
  unfold nextEntry; split <;> rfl
@[simp] theorem nextEntry_draws (s : State) : (nextEntry s).draws = s.draws := by
  unfold nextEntry; split <;> rfl

end Sys2Proof.Machine
end

