-- ==== Sys2Proof/Laws/Ops.lean ====
section
/-! SUPPORT. One lemma per shared operation that says once everything it can do, and one inversion lemma for the step:
who moved, and which meaning ran. Later proofs cite these and unfold nothing. -/

namespace Sys2Proof.Machine

/-- A START with a legal width goes on only when the block is not BUSY, and then it is accepted (R85). -/
theorem startRun_eq_next {w : Width} {p : Nat} {s t : State} (h : startRun w p s = .next t) :
    s.phase.busy = false ∧ t = acceptStart w p s := by
  unfold startRun at h
  split at h
  · cases h
  · rename_i hb
    cases h
    exact ⟨by simpa using hb, rfl⟩

/-- The only refusal of a START with a legal width is `busy` (R85). -/
theorem startRun_eq_refused {w : Width} {p : Nat} {s : State} {q : Refusal} (h : startRun w p s = .refused q) :
    s.phase.busy = true ∧ q = .busy := by
  unfold startRun at h
  split at h
  · cases h
    exact ⟨‹_›, rfl⟩
  · cases h

theorem startRun_ne_fault {w : Width} {p : Nat} {s : State} {f : Fault} : startRun w p s ≠ .fault f := by
  unfold startRun
  split <;> simp

/-- A START of an illegal width is refused, BUSY first (R85). -/
theorem refuseStart_cases (s : State) :
    (s.phase.busy = true ∧ refuseStart s = .refused .busy) ∨
      (s.phase.busy = false ∧ refuseStart s = .refused .illegalWidth) := by
  unfold refuseStart
  cases s.phase.busy <;> simp

/-- RDTAB: what each outcome says (R86). -/
theorem execRdtab_cases (idx : Byte) (s : State) :
    (∃ e, s.phase = .done ∧ Memory.read s.table idx.toNat = some e ∧
        execRdtab idx s = .next (returnToHost (.entry (portValue e)) s)) ∨
      (s.phase = .done ∧ Memory.read s.table idx.toNat = none ∧ execRdtab idx s = .fault .unwrittenEntry) ∨
      (s.phase ≠ .done ∧ execRdtab idx s = .refused .tableNotReady) := by
  unfold execRdtab
  split
  · rename_i hp
    cases hr : Memory.read s.table idx.toNat with
    | some e => exact .inl ⟨e, hp, rfl, rfl⟩
    | none => exact .inr (.inl ⟨hp, rfl, rfl⟩)
  · exact .inr (.inr ⟨‹_›, rfl⟩)

/-- Which micro-operation the state code selects, for every width and phase (R67, R121). -/
theorem sequencerTurn_eq (s : State) :
    sequencerTurn s = match s.phase, s.wsel with
      | .idle, _ => .next s
      | .seed, .w8 => exec .seed8 s
      | .seed, .w16 => exec .seed16 s
      | .div, .w8 => exec .div8 s
      | .div, .w16 => exec .div16 s
      | .store, _ => exec .store s
      | .done, _ => .next s := by
  unfold sequencerTurn
  cases s.phase <;> cases s.wsel <;> rfl

/-- The host's action: what runs for each of the four (R68, R69). -/
theorem hostTurn_reset (s : State) : hostTurn .reset s = .next (resetBlock s) := rfl

theorem hostTurn_poll (s : State) : hostTurn .poll s = .next (returnToHost (.status s.phase.status) s) := rfl

theorem hostTurn_rdtab (idx : Byte) (s : State) : hostTurn (.rdtab idx) s = execRdtab idx s := rfl

theorem hostTurn_start (w : CmdWord) (s : State) :
    hostTurn (.start w) s =
      if widthField w = 0x08#8 then startRun .w8 (polyField w).toNat s
      else if widthField w = 0x10#8 then startRun .w16 (polyField w).toNat s
      else refuseStart s := by
  simp only [hostTurn, decode, decodeRequest, decodeCmd]
  by_cases h8 : widthField w = 0x08#8
  · simp [h8, exec, execGen8]
  · by_cases h16 : widthField w = 0x10#8
    · simp [h16, exec, execGen16]
    · simp [h8, h16]

/-- The turn that a step takes. -/
theorem step_nil {s : State} (h : s.turns = []) : step s = sequencerTurn s := by
  simp [step, takeTurn, h]

theorem step_seq {s : State} {ts : List Turn} (h : s.turns = .seq :: ts) :
    step s = sequencerTurn { s with turns := ts } := by
  simp [step, takeTurn, h]

theorem step_host {s : State} {q : Request} {ts : List Turn} (h : s.turns = .host q :: ts) :
    step s = hostTurn q { s with turns := ts } := by
  simp [step, takeTurn, h]

theorem step_resetWith {s : State} {q : Request} {ts : List Turn} (h : s.turns = .resetWith q :: ts) :
    step s = .next (resetBlock { s with turns := ts }) := by
  simp [step, takeTurn, h, hostTurn_reset]

/-- Who moves: the sequencer, the host, or a RESET that beats another action; the turn is over when it has. -/
theorem step_turn (s : State) :
    (∃ ts, (s.turns = [] ∧ ts = [] ∨ s.turns = .seq :: ts) ∧ step s = sequencerTurn { s with turns := ts }) ∨
      (∃ q ts, s.turns = .host q :: ts ∧ step s = hostTurn q { s with turns := ts }) ∨
      (∃ q ts, s.turns = .resetWith q :: ts ∧ step s = .next (resetBlock { s with turns := ts })) := by
  cases h : s.turns with
  | nil =>
    have hs : { s with turns := [] } = s := by rw [← h]
    exact .inl ⟨[], .inl ⟨rfl, rfl⟩, by rw [step_nil h, hs]⟩
  | cons x ts =>
    cases x with
    | seq => exact .inl ⟨ts, .inr rfl, step_seq h⟩
    | host q => exact .inr (.inl ⟨q, ts, rfl, step_host h⟩)
    | resetWith q => exact .inr (.inr ⟨q, ts, rfl, step_resetWith h⟩)

/-- Every way a sequencer's turn ends: the micro-operation of the phase and width, or no step in IDLE and DONE. -/
theorem sequencerTurn_cases (s : State) :
    ((s.phase = .idle ∨ s.phase = .done) ∧ sequencerTurn s = .next s) ∨
      (s.phase = .seed ∧ s.wsel = .w8 ∧ sequencerTurn s = .next (enterDiv { s with r := seedLow s.i })) ∨
      (s.phase = .seed ∧ s.wsel = .w16 ∧ sequencerTurn s = .next (enterDiv { s with r := 0, b := seedHigh s.i })) ∨
      (s.phase = .div ∧ s.wsel = .w8 ∧
        sequencerTurn s = .next (countRound { s with r := zext16 (round8 (low8 s.poly) (low8 s.r)) })) ∨
      (s.phase = .div ∧ s.wsel = .w16 ∧
        sequencerTurn s = .next (countRound { s with r := round16 s.poly s.r s.b, b := shl s.b })) ∨
      (s.phase = .store ∧
        sequencerTurn s = .next (nextEntry { s with table := Memory.write s.table s.i.toNat (entryOf s.wsel s.r) })) := by
  rw [sequencerTurn_eq]
  cases hp : s.phase <;> cases hw : s.wsel <;> simp [exec, execSeed8, execSeed16, execDiv8, execDiv16, execStore, hp, hw]

/-- The sequencer never faults and is never refused (R89, R150). -/
theorem sequencerTurn_next (s : State) : ∃ t, sequencerTurn s = .next t := by
  rcases sequencerTurn_cases s with ⟨-, h⟩ | ⟨-, -, h⟩ | ⟨-, -, h⟩ | ⟨-, -, h⟩ | ⟨-, -, h⟩ | ⟨-, h⟩ <;> exact ⟨_, h⟩

end Sys2Proof.Machine
end

