-- ==== Sys2Proof/Laws/Run.lean ====
section
/-! SUPPORT. Runs of many steps: they compose, and the model's run is the host interface's. -/

namespace Sys2Proof.Machine

@[simp] theorem run_zero (s : State) : run 0 s = .next s := rfl

theorem run_succ_next {n : Nat} {s t : State} (h : step s = .next t) : run (n + 1) s = run n t := by
  simp [run, h]

/-- A run of `m + n` steps is one of `m` and then one of `n`. -/
theorem run_add {m : Nat} {s t : State} (n : Nat) (h : run m s = .next t) : run (m + n) s = run n t := by
  induction m generalizing s with
  | zero =>
    cases h
    simp
  | succ m ih =>
    rw [Nat.add_right_comm]
    cases hs : step s with
    | next u => simpa [run, hs] using ih (by simpa [run, hs] using h)
    | fault f => simp [run, hs] at h
    | refused r => simp [run, hs] at h

/-- The host interface's run is this one. -/
theorem core_run_eq (n : Nat) (s : State) : Host.Core.run Sys2Proof.core n s = run n s := by
  induction n generalizing s with
  | zero => rfl
  | succ n ih =>
    cases hs : step s with
    | next t =>
      have hc : Host.Core.step Sys2Proof.core s = .next t := hs
      simpa [run, hs, Host.Core.run, hc] using ih t
    | fault f =>
      have hc : Host.Core.step Sys2Proof.core s = .fault f := hs
      simp only [run, hs, Host.Core.run, hc]
      rfl
    | refused r =>
      have hc : Host.Core.step Sys2Proof.core s = .refused r := hs
      simp only [run, hs, Host.Core.run, hc]
      rfl

@[simp] theorem hwRun_zero (m : Marked) : hwRun 0 m = .next m := rfl

theorem hwRun_succ_next {n : Nat} {m m' : Marked} (h : hwStep m = .next m') : hwRun (n + 1) m = hwRun n m' := by
  simp [hwRun, h]

/-- The hardware's run composes as well. -/
theorem hwRun_add {a : Nat} {m m' : Marked} (n : Nat) (h : hwRun a m = .next m') : hwRun (a + n) m = hwRun n m' := by
  induction a generalizing m with
  | zero =>
    cases h
    simp
  | succ a ih =>
    rw [Nat.add_right_comm]
    cases hs : hwStep m with
    | next u => simpa [hwRun, hs] using ih (by simpa [hwRun, hs] using h)
    | fault f => simp [hwRun, hs] at h
    | refused r => simp [hwRun, hs] at h

/-- A step that goes on is the same step of the hardware, with no mark. -/
theorem hwStep_next {s t : State} {rs : List Refusal} (h : step s = .next t) : hwStep ⟨s, rs⟩ = .next ⟨t, rs⟩ := by
  simp [hwStep, h]

/-- A refused step leaves the state but for the turn, and a mark (R85, R163). -/
theorem hwStep_refused {s : State} {q : Refusal} {rs : List Refusal} (h : step s = .refused q) :
    hwStep ⟨s, rs⟩ = .next ⟨dropTurn s, q :: rs⟩ := by
  simp [hwStep, h]

/-- A run that goes on is the same run of the hardware, with no mark. -/
theorem hwRun_of_run {n : Nat} {s t : State} {rs : List Refusal} (h : run n s = .next t) :
    hwRun n ⟨s, rs⟩ = .next ⟨t, rs⟩ := by
  induction n generalizing s with
  | zero =>
    cases h
    rfl
  | succ n ih =>
    cases hs : step s with
    | next u => simpa [hwRun, hwStep_next hs] using ih (by simpa [run, hs] using h)
    | fault f => simp [run, hs] at h
    | refused r => simp [run, hs] at h

/-- The sequencer's step neither reads the turns to come nor changes them. -/
theorem sequencerTurn_withTurns {s t : State} (ts : List Turn) (h : sequencerTurn s = .next t) :
    sequencerTurn { s with turns := ts } = .next { t with turns := ts } := by
  rw [sequencerTurn_eq] at h ⊢
  obtain ⟨p, w, _, _, _, _, _, _, _, _, _⟩ := s
  cases p <;> cases w <;>
    simp only [exec, execSeed8, execSeed16, execDiv8, execDiv16, execStore, enterDiv, countRound, nextEntry] at h ⊢ <;>
    (try split at h) <;> cases h <;> simp_all

/-- A run of micro-steps and POLLs goes the same way whatever is scheduled after it, and leaves that. -/
theorem run_append_turns {ts : List Turn} {s t : State} (rest : List Turn)
    (hts : ∀ x ∈ ts, x = .seq ∨ x = .host .poll) (h : run ts.length { s with turns := ts } = .next t) :
    run ts.length { s with turns := ts ++ rest } = .next { t with turns := rest } ∧ t.turns = [] := by
  induction ts generalizing s with
  | nil =>
    cases h
    exact ⟨rfl, rfl⟩
  | cons x ts ih =>
    have go : ∀ u : State, (∀ l, step { s with turns := x :: l } = .next { u with turns := l }) →
        run (x :: ts).length { s with turns := x :: ts ++ rest } = .next { t with turns := rest } ∧ t.turns = [] :=
      fun u hu => by
        rw [List.length_cons, run_succ_next (hu ts)] at h
        rw [List.length_cons, List.cons_append, run_succ_next (hu _)]
        exact ih (fun y hy => hts y (.tail _ hy)) h
    rcases hts x (.head _) with rfl | rfl
    · obtain ⟨u, hu⟩ := sequencerTurn_next s
      exact go u fun l => by
        rw [step_seq (ts := l) rfl]
        exact sequencerTurn_withTurns (s := s) l hu
    · exact go (returnToHost (.status s.phase.status) s) fun l => by
        rw [step_host (ts := l) rfl]
        exact hostTurn_poll _

@[simp] theorem seqTurns_nil : seqTurns [] = 0 := rfl

@[simp] theorem seqTurns_cons_seq (ts : List Turn) : seqTurns (.seq :: ts) = seqTurns ts + 1 :=
  List.countP_cons_of_pos rfl

@[simp] theorem seqTurns_cons_host (q : Request) (ts : List Turn) : seqTurns (.host q :: ts) = seqTurns ts :=
  List.countP_cons_of_neg (by simp [Turn.isSeq])

@[simp] theorem seqTurns_cons_resetWith (q : Request) (ts : List Turn) :
    seqTurns (.resetWith q :: ts) = seqTurns ts :=
  List.countP_cons_of_neg (by simp [Turn.isSeq])

end Sys2Proof.Machine
end

