-- ==== Sys2Proof/Laws/Instances.lean ====
section
/-! SUPPORT. What a step of one instance can do to the list of them. -/

namespace Sys2Proof.Machine

/-- A step of a product that goes on: there is no such instance, or its own step went on and the rest is as it was. -/
theorem stepInstance_eq_next {k : Nat} {ms ns : List State} (h : stepInstance k ms = .next ns) :
    (ms[k]? = none ∧ ns = ms) ∨ ∃ s t, ms[k]? = some s ∧ step s = .next t ∧ ns = ms.set k t := by
  unfold stepInstance at h
  split at h
  · cases h
    exact .inl ⟨‹_›, rfl⟩
  · split at h <;> cases h
    exact .inr ⟨_, _, ‹_›, ‹_›, rfl⟩

/-- The same of the hardware's step. -/
theorem hwStepInstance_eq_next {k : Nat} {ms ns : List Marked} (h : hwStepInstance k ms = .next ns) :
    (ms[k]? = none ∧ ns = ms) ∨ ∃ m m', ms[k]? = some m ∧ hwStep m = .next m' ∧ ns = ms.set k m' := by
  unfold hwStepInstance at h
  split at h
  · cases h
    exact .inl ⟨‹_›, rfl⟩
  · split at h <;> cases h
    exact .inr ⟨_, _, ‹_›, ‹_›, rfl⟩

end Sys2Proof.Machine
end

