-- ==== Sys2Proof/Laws/PerInstr.lean ====
section
/-! SUPPORT. Statements made for every instruction: its encoding lies in the row of the operation map that names it, and
in no other (spec/30_encoding.md R68, spec/opcode_table.json). -/

namespace Sys2Proof.Laws.OneRow

/-- The rows of the operation map that hold the instruction's code are the one of its mnemonic. -/
def Statement (i : Instr) : Prop :=
  (opRows.filter fun row => row.selects (encode i)).map OpRow.mnemonic = [i.mnemonic]

theorem reset : Statement .reset := by
  unfold Statement
  decide
theorem poll : Statement .poll := by
  unfold Statement
  decide

/-- The width byte of a command word, read through the row's mask. -/
theorem cmd_mask (a : Byte) (p : BitVec 32) : (cmdWord a p).toNat &&& 0xFF00000000 = a.toNat * 2 ^ 32 := by
  have ha := a.isLt
  have hp := p.isLt
  rw [toNat_cmdWord, show (0xFF00000000 : Nat) = (2 ^ 8 - 1) <<< 32 from rfl, ← Nat.shiftLeft_eq,
    Nat.shiftLeft_add_eq_or_of_lt hp]
  apply Nat.eq_of_testBit_eq
  intro k
  simp only [Nat.testBit_and, Nat.testBit_or, Nat.testBit_shiftLeft, Nat.testBit_two_pow_sub_one]
  by_cases hk : 32 ≤ k
  · have hpk : p.toNat.testBit k = false :=
      Nat.testBit_lt_two_pow (Nat.lt_of_lt_of_le hp (Nat.pow_le_pow_right (by decide) hk))
    by_cases hk8 : k - 32 < 8
    · simp [hk, hpk, hk8]
    · have hak : a.toNat.testBit (k - 32) = false :=
        Nat.testBit_lt_two_pow (Nat.lt_of_lt_of_le ha (Nat.pow_le_pow_right (by decide) (by omega)))
      simp [hpk, hk8, hak]
  · simp [hk]

theorem gen8 (p : Nat) : Statement (.gen8 p) := by
  simp [Statement, opRows, OpRow.selects, encode, Code.bits, cmd_mask, Instr.mnemonic]

theorem gen16 (p : Nat) : Statement (.gen16 p) := by
  simp [Statement, opRows, OpRow.selects, encode, Code.bits, cmd_mask, Instr.mnemonic]

theorem rdtab (i : Byte) : Statement (.rdtab i) := by
  simp [Statement, opRows, OpRow.selects, encode, Code.bits, Instr.mnemonic]

theorem seed8 : Statement .seed8 := by
  unfold Statement
  decide
theorem div8 : Statement .div8 := by
  unfold Statement
  decide
theorem seed16 : Statement .seed16 := by
  unfold Statement
  decide
theorem div16 : Statement .div16 := by
  unfold Statement
  decide
theorem store : Statement .store := by
  unfold Statement
  decide

end Sys2Proof.Laws.OneRow
end

