-- ==== Sys2Proof/Laws/Pseudo.lean ====
section
/-! SUPPORT. What one POLL of a WAIT, and one line of a program, can do to the turns of the whole. -/

namespace Sys2Proof.Machine

@[simp] theorem waitTurns_nil (s : State) : waitTurns [] s = none := rfl

/-- A WAIT's first POLL: it is the last one if it returns DONE, and else the WAIT goes on from where it leaves off. -/
theorem waitTurns_cons {gap : Nat} {s t : State} (gaps : List Nat)
    (h : run (List.replicate gap Turn.seq ++ [Turn.host .poll]).length
      { s with turns := List.replicate gap Turn.seq ++ [Turn.host .poll] } = .next t) :
    waitTurns (gap :: gaps) s =
      if t.replies.head? = some (.status .done) then some (List.replicate gap Turn.seq ++ [Turn.host .poll])
      else (waitTurns gaps t).map (List.replicate gap Turn.seq ++ [Turn.host .poll] ++ ·) := by
  simp only [waitTurns, h]

@[simp] theorem programTurns_nil (s : State) : programTurns [] s = some [] := rfl

/-- A line that runs through without a refusal: its turns, and then those of the rest from where it leaves off. -/
theorem programTurns_cons {l : Line} {s t : State} {ts : List Turn} (ls : List Line) (hl : l.turns s = some ts)
    (h : run ts.length { s with turns := ts } = .next t) :
    programTurns (l :: ls) s = (programTurns ls t).map (ts ++ ·) := by
  simp only [programTurns, hl, hwRun_of_run h]

/-- A line that is not over leaves the program without turns. -/
theorem programTurns_cons_none {l : Line} {s : State} (ls : List Line) (hl : l.turns s = none) :
    programTurns (l :: ls) s = none := by
  simp only [programTurns, hl]

end Sys2Proof.Machine
end

