-- ==== Sys2Proof/Tests/Slice0.lean ====
section
/-! SUPPORT. The model's own tests: the WellFormed smoke, words written out from the spec's encodings, the spec's derived
vectors (spec/95_test_vectors.md, named by their ids), one step each; and, for every statement with hypotheses, a
concrete state and operands that meet them. -/

namespace Sys2Proof.Tests

open Sys2Proof Sys2Proof.Machine

/-! ## Small states -/

/-- A state of a run: the eight elements, nothing scheduled. -/
def st (p : Phase) (w : Width) (poly r b : Word16) (i : Byte) (k : BitVec 3) (m : Memory) : State :=
  { State.reset with phase := p, wsel := w, poly := poly, r := r, b := b, i := i, k := k, table := m }

/-- The same with turns to come. -/
def withTurns (ts : List Turn) (s : State) : State := { s with turns := ts }

/-- The next state of an outcome, if there is one. -/
def nextOf : Host.Outcome State Fault Refusal → Option State
  | .next s => some s
  | .fault _ => none
  | .refused _ => none

/-- The refusal of an outcome, if there is one. -/
def refusalOf : Host.Outcome State Fault Refusal → Option Refusal
  | .next _ => none
  | .fault _ => none
  | .refused r => some r

/-- What a DIV or SEED vector of the spec lists after the step: `R`, `B`, `K`, `PHASE`. -/
def regsOf (o : Host.Outcome State Fault Refusal) : Option (Word16 × Word16 × BitVec 3 × Phase) :=
  (nextOf o).map fun s => (s.r, s.b, s.k, s.phase)

/-- What a STORE vector lists: the entry written at an index, `I`, `PHASE`. -/
def storeOf (j : Nat) (o : Host.Outcome State Fault Refusal) : Option (Option Entry × Byte × Phase) :=
  (nextOf o).map fun s => (Memory.read s.table j, s.i, s.phase)

/-! ## Well-formedness -/

/-- R62: the polynomial field has 32 bits. -/
theorem test_wf_gen8_too_wide : (Instr.gen8 (2 ^ 32)).wf = false := by decide
theorem test_wf_gen16_too_wide : (Instr.gen16 (2 ^ 32)).wf = false := by decide
theorem test_wf_gen8_widest : (Instr.gen8 (2 ^ 32 - 1)).wf = true := by decide

/-! ## Decoding: words written out bit by bit from R62, R63, R66, R67 -/

theorem test_decode_gen8 :
    decode (.host (.start 0b0000100000000000000000000000000010011011#40)) = .instr (.gen8 0x9B) := by decide
theorem test_decode_gen16 :
    decode (.host (.start 0b0001000000000000000000000001000000100001#40)) = .instr (.gen16 0x1021) := by decide
theorem test_decode_width12 :
    decode (.host (.start 0b0000110000000000000000000000000010011011#40)) = .reject (.illegalWidth 12) := by decide
theorem test_decode_rdtab : decode (.host (.rdtab 0b11111000#8)) = .instr (.rdtab 248) := by decide
theorem test_decode_reset : decode (.host .reset) = .instr .reset := by decide
theorem test_decode_poll : decode (.host .poll) = .instr .poll := by decide
theorem test_decode_seed8 : decode (.useq 0b0001#4) = .instr .seed8 := by decide
theorem test_decode_div8 : decode (.useq 0b0010#4) = .instr .div8 := by decide
theorem test_decode_seed16 : decode (.useq 0b1001#4) = .instr .seed16 := by decide
theorem test_decode_div16 : decode (.useq 0b1010#4) = .instr .div16 := by decide
theorem test_decode_store :
    decode (.useq 0b0011#4) = .instr .store ∧ decode (.useq 0b1011#4) = .instr .store := by decide
theorem test_decode_waits :
    decode (.useq 0b0000#4) = .reject .noMicroOp ∧ decode (.useq 0b1100#4) = .reject .noMicroOp := by decide

/-- The words of the operation map without their action (log 10). -/
theorem test_table_words :
    decodeTableWord 40 0x080000009B = some (.gen8 0x9B) ∧ decodeTableWord 40 0x0C0000009B = none ∧
    decodeTableWord 8 0x1 = some .seed8 ∧ decodeTableWord 8 0xA = some .div16 ∧ decodeTableWord 8 0x3 = some .store ∧
    decodeTableWord 8 0xF8 = some (.rdtab 248) ∧ decodeTableWord 0 0 = some .reset := by decide

/-! ## Micro-operations -/

/-- S8-4: `R[15:8]` is cleared whatever a width-16 run left. -/
theorem test_seed8 : regsOf (exec .seed8 (st .seed .w8 0x9B 0xFFFF 0 0xFF 0 [])) = some (0x00FF, 0, 0, .div) := by decide

/-- D8-4 and D8-3: a carry in the middle, and the eighth round. -/
theorem test_div8_carry : regsOf (exec .div8 (st .div .w8 0x9B 0xFF 0 255 0 [])) = some (0x65, 0, 1, .div) := by decide
theorem test_div8_last : regsOf (exec .div8 (st .div .w8 0x9B 0x80 0 1 7 [])) = some (0x9B, 0, 0, .store) := by decide

/-- S16-4. -/
theorem test_seed16 :
    regsOf (exec .seed16 (st .seed .w16 0x1021 0xE1F0 0 0xFF 0 [])) = some (0x0000, 0xFF00, 0, .div) := by decide

/-- D16-5: both top bits set, no carry, the top bit of `R` is lost. D16-3: a carry from `B` alone, the eighth round. -/
theorem test_div16_lost_bit :
    regsOf (exec .div16 (st .div .w16 0x1021 0xF1EF 0xF000 255 4 [])) = some (0xE3DE, 0xE000, 5, .div) := by decide
theorem test_div16_last :
    regsOf (exec .div16 (st .div .w16 0x1021 0x0000 0x8000 1 7 [])) = some (0x1021, 0x0000, 0, .store) := by decide

/-- ST-2 with entry 0 there, and ST-5, the last entry of a width-16 run. -/
theorem test_store_first :
    (storeOf 1 (exec .store (st .store .w8 0x9B 0x009B 0 1 0 [(0, .w8 0)])), storeOf 0 (exec .store
      (st .store .w8 0x9B 0x009B 0 1 0 [(0, .w8 0)]))) =
    (some (some (.w8 0x9B), 2, .seed), some (some (.w8 0), 2, .seed)) := by decide
theorem test_store_last :
    storeOf 255 (exec .store (st .store .w16 0x1021 0x1EF0 0 255 0 [])) = some (some (.w16 0x1EF0), 255, .done) := by
  decide

/-! ## Host actions, as turns of a step -/

/-- X-7 with the truncation of V8-5: the word is GEN8 0x19B. -/
theorem test_gen8_truncates :
    (nextOf (step (withTurns [.host (.start 0x080000019B#40)] State.reset))).map
      (fun s => (s.phase, s.wsel, s.poly, s.i, s.k)) = some (.seed, .w8, 0x009B, 0, 0) := by decide

/-- X-16: from DONE the old table is gone at once. -/
theorem test_gen16_from_done :
    (nextOf (step (withTurns [.host (.start 0x1000001021#40)] (st .done .w8 0x9B 0x7B 0 255 0 [(0, .w8 0)])))).map
      (fun s => (s.phase, s.wsel, s.poly, s.table)) = some (.seed, .w16, 0x1021, []) := by decide

/-- X-3, X-10 and X-11: the busy check comes first. -/
theorem test_start_refusals :
    (refusalOf (step (withTurns [.host (.start 0x0C0000009B#40)] State.reset)),
      refusalOf (step (withTurns [.host (.start 0x1000001021#40)] (st .div .w8 0x9B 0 0 0 0 []))),
      refusalOf (step (withTurns [.host (.start 0x0C0000009B#40)] (st .div .w8 0x9B 0 0 0 0 [])))) =
    (some .illegalWidth, some .busy, some .busy) := by decide

/-- X-14: RDTAB 255 of the 0x9B table. X-9: refused while BUSY although entry 0 is written. -/
theorem test_rdtab_done :
    (nextOf (step (withTurns [.host (.rdtab 255)] (st .done .w8 0x9B 0x7B 0 255 0 [(255, .w8 0x7B)])))).map
      (fun s => (s.replies, s.phase)) = some ([.entry 0x007B], .done) := by decide
theorem test_rdtab_busy :
    refusalOf (step (withTurns [.host (.rdtab 0)] (st .seed .w8 0x9B 0 0 1 0 [(0, .w8 0)]))) = some .tableNotReady := by
  decide

/-- X-8 and X-13. -/
theorem test_poll :
    ((nextOf (step (withTurns [.host .poll] (st .store .w8 0 0 0 0 0 [])))).map State.replies,
      (nextOf (step (withTurns [.host .poll] (st .done .w8 0 0 0 255 0 [])))).map State.replies) =
    (some [.status .busy], some [.status .done]) := by decide

/-- X-12: RESET ends a run and no entry is left. R156: also when it comes with another action, which is dropped. -/
theorem test_reset_busy :
    (nextOf (step (withTurns [.host .reset] (st .div .w8 7 0x38 0 128 4 [(0, .w8 0)])))).map
      (fun s => (s.phase, Memory.read s.table 0)) = some (.idle, none) := by decide
theorem test_reset_with_rdtab :
    (nextOf (step (withTurns [.resetWith (.rdtab 0)] (st .done .w8 7 0 0 255 0 [(0, .w8 0)])))).map
      (fun s => (s.phase, Memory.read s.table 0, s.replies)) = some (.idle, none, []) := by decide

/-- R121: without a turn scheduled the sequencer moves; in IDLE it waits. -/
theorem test_sequencer_moves : (nextOf (step (st .seed .w16 0 0 0 1 0 []))).map State.b = some 0x0100 := by decide
theorem test_sequencer_waits : nextOf (step State.reset) = some State.reset := by decide

/-- R86 and U7: an unwritten entry in DONE, which no run reaches. -/
theorem test_rdtab_unwritten :
    exec (.rdtab 3) (st .done .w8 0 0 0 255 0 []) = .fault .unwrittenEntry := rfl

/-- R72, R73: WAIT in the STORE of entry 255, with no micro-step before its first POLL and one before each later one: the
first POLL returns BUSY, the second DONE, and there is no third. -/
theorem test_wait_stops_at_done :
    (Pseudo.wait [0, 1, 1]).turns (st .store .w8 0 0 0 255 0 []) = some [.host .poll, .seq, .host .poll] := by decide

/-- R72: POLL returns IDLE for ever in IDLE. -/
theorem test_wait_in_idle : (Pseudo.wait [0, 1, 5]).turns State.reset = none := by decide

/-- 95_test_vectors.md P3, steps 1 and 2, and P2, step 3: refused actions do not end a program. -/
theorem test_program_turns :
    programTurns [.action (.start 0x0C0000009B#40), .action .poll, .pseudo (.generate 0x10 0x1021), .pass 2,
      .action (.rdtab 0)] State.reset =
      some [.host (.start 0x0C0000009B#40), .host .poll, .host (.start 0x1000001021#40), .seq, .seq, .host (.rdtab 0)] := by
  decide

/-! ## Witnesses: states and operands that meet the hypotheses of the statements -/

/-- A START in IDLE, a command's words at the boundaries of the legal widths. -/
theorem witness_CommandWordFieldsDecode :
    (0x08FFFFFFFF#40).toNat / 2 ^ 32 = 8 ∧ (0x1000000000#40).toNat / 2 ^ 32 = 16 ∧
    (∀ w ∈ [0x00FFFFFFFF#40, 0x07FFFFFFFF#40, 0x0900000000#40, 0x0FFFFFFFFF#40, 0x1100000000#40, 0xFF00000000#40],
      w.toNat / 2 ^ 32 ≠ 8 ∧ w.toNat / 2 ^ 32 ≠ 16) := by simp

theorem witness_DecodeOfEncode : (Instr.gen16 (2 ^ 32 - 1)).wf = true ∧ (Instr.rdtab 255).wf = true := by decide

theorem witness_EncodeOfDecode :
    decode (.useq 0b1011#4) = .instr .store ∧ decode (.host (.start 0x08FFFFFFFF#40)) = .instr (.gen8 0xFFFFFFFF) := by
  decide

theorem witness_DecoderFollowsOperationMap : (⟨"STORE", .useq, 0x7, 0x3⟩ : OpRow) ∈ opRows := by decide

theorem witness_StepRunsTheHostAction :
    (withTurns [.host (.rdtab 255)] State.reset).turns = .host (.rdtab 255) :: [] ∧
      decode (.host (.rdtab 255)) = .instr (.rdtab 255) := by decide

/-- A state for each clause, with no turn scheduled and with the sequencer's. -/
theorem witness_StepSelectsTheMicroOperation :
    (∀ p ∈ [Phase.seed, .div, .store, .idle, .done], ∀ w ∈ [Width.w8, .w16],
      (st p w 0 0 0 0 0 []).turns = [] ∧ (st p w 0 0 0 0 0 []).phase = p ∧ (st p w 0 0 0 0 0 []).wsel = w) ∧
    (withTurns [.seq] (st .seed .w8 0 0 0 0 0 [])).turns = .seq :: [] := by decide

theorem witness_ResetBeatsAnotherAction :
    (withTurns [.resetWith .poll] State.reset).turns = .resetWith .poll :: [] := by decide

/-- A BUSY state and a legal word, and in IDLE and DONE words of the widths 7, 8, 9, 15, 16 and 17. -/
theorem witness_StartIsExaminedInOrder :
    (∀ p ∈ [Phase.seed, .div, .store, .idle, .done],
      (withTurns [.host (.start 0x0800000000#40)] (st p .w8 0 0 0 0 0 [])).turns = .host (.start 0x0800000000#40) :: []) ∧
    (∀ w ∈ [0x0700000000#40, 0x0900000000#40, 0x0F00000000#40, 0x1100000000#40],
      w.toNat / 2 ^ 32 ≠ 8 ∧ w.toNat / 2 ^ 32 ≠ 16) ∧
    (0x0800000000#40).toNat / 2 ^ 32 = 8 ∧ (0x1000000000#40).toNat / 2 ^ 32 = 16 :=
  ⟨by decide, by simp, by decide, by decide⟩

/-- One refused step for each reason. -/
theorem witness_RefusalsHaveTheirReasons :
    step (withTurns [.host (.start 0x0800000000#40)] (st .seed .w8 0 0 0 0 0 [])) = .refused .busy ∧
    step (withTurns [.host (.start 0x0900000000#40)] State.reset) = .refused .illegalWidth ∧
    step (withTurns [.host (.rdtab 0)] State.reset) = .refused .tableNotReady := ⟨rfl, rfl, rfl⟩

/-- A state in each phase, for the clauses of POLL, GEN8 and GEN16. -/
theorem witness_phases :
    ∀ p ∈ [Phase.idle, .seed, .div, .store, .done], (st p .w16 0 0 0 0 0 []).phase = p := by decide

theorem witness_HighPolynomialBitsIgnored :
    0x19B % 2 ^ 8 = 0x9B % 2 ^ 8 ∧ 0x11021 % 2 ^ 16 = 0x1021 % 2 ^ 16 := by decide

/-- DONE with entries of both widths written at the ends of the table; another entry unwritten; another phase. -/
theorem witness_RdtabReturnsTheEntry :
    (st .done .w8 0 0 0 255 0 [(0, .w8 0), (255, .w8 255)]).phase = .done ∧
    Memory.read (st .done .w8 0 0 0 255 0 [(0, .w8 0), (255, .w8 255)]).table (255#8).toNat = some (.w8 255) ∧
    Memory.read (st .done .w16 0 0 0 255 0 [(0, .w16 65535)]).table (0#8).toNat = some (.w16 65535) ∧
    Memory.read (st .done .w16 0 0 0 255 0 [(0, .w16 65535)]).table (1#8).toNat = none ∧
    (st .store .w8 0 0 0 255 0 []).phase ≠ .done := by decide

/-- Rounds at both ends of `K`, entries at both ends of `I`, both widths. -/
theorem witness_micro_operations :
    (st .div .w8 0 0 0 0 7 []).k = 7 ∧ (st .div .w8 0 0 0 0 6 []).k ≠ 7 ∧ (st .store .w8 0 0 0 255 0 []).i = 255 ∧
    (st .store .w16 0 0 0 254 0 []).i ≠ 255 ∧ (st .store .w8 0 0 0 255 0 []).wsel = .w8 ∧
    (st .store .w16 0 0 0 254 0 []).wsel = .w16 ∧ (0 : Nat) ≠ (255#8).toNat ∧ (0b1011#4).toNat % 8 = 3 := by decide

theorem witness_PowerOnHasTheInvariants : PowerOn { State.reset with wsel := .w16, poly := 0xFFFF, r := 1, k := 5 } :=
  ⟨rfl, rfl, rfl⟩

/-- The state after GEN8 0x9B is accepted. -/
def seeded : State := acceptStart .w8 0x9B State.reset

/-- It has the invariants. -/
theorem seeded_invariants : Invariants seeded where
  tableWf := Memory.wf_unwritten
  highR := fun _ h => by rcases h with h | h <;> cases h
  highPoly := fun _ _ => by decide
  shadow := fun h => by cases h
  entries := fun _ _ => ⟨fun h => absurd h (Nat.not_lt_zero _), fun _ => rfl⟩
  doneCounters := fun h => by cases h
  roundCounter := fun _ => rfl
  contained := fun _ _ h => by cases h
  round8 := fun _ h => by cases h
  round16 := fun h => by cases h
  finished := fun h => by rcases h with h | h <;> cases h
  shadowOut := fun h => by cases h

/-- The seeded state steps: SEED8 is next. -/
theorem witness_StepKeepsTheInvariants : Invariants seeded ∧ step seeded = .next (enterDiv { seeded with r := 0 }) :=
  ⟨seeded_invariants, rfl⟩

/-- The seeded state is one step from power-on. -/
theorem witness_ReachableStatesHaveTheInvariants : Reachable seeded :=
  ⟨withTurns [.host (.start 0x080000009B#40)] State.reset, 1, ⟨rfl, rfl, rfl⟩, rfl⟩

theorem witness_StepKeepsTheTableCanonical :
    Memory.wf (st .store .w8 0 0x9B 0 1 0 [(0, .w8 0)]).table ∧
      (nextOf (step (st .store .w8 0 0x9B 0 1 0 [(0, .w8 0)]))).isSome = true := by decide

theorem witness_NoRunFaults : PowerOn (withTurns [.host .poll] State.reset) := ⟨rfl, rfl, rfl⟩

/-- The last round and the last entry, where a counter could wrap, and the round before the last, step without a RESET. -/
theorem witness_CountersNeverWrap :
    (nextOf (step (st .div .w16 0 0 0 255 7 []))).map (fun t => (t.k, t.phase)) = some (0, .store) ∧
    (nextOf (step (st .div .w8 0 0 0 255 6 []))).map (fun t => (t.k, t.phase)) = some (7, .div) ∧
    (∀ x ∈ (st .div .w16 0 0 0 255 7 []).turns.head?, x.isReset = false) ∧
    (st .div .w16 0 0 0 255 7 []).phase = .div ∧ (st .store .w16 0 0 0 255 0 []).phase ≠ .div ∧
    (nextOf (step (st .store .w16 0 0 0 255 0 []))).isSome = true ∧
    (st .store .w16 0 0 0 255 0 []).phase.busy = true ∧
    (∀ x ∈ (st .store .w16 0 0 0 255 0 []).turns.head?, x.isReset = false) := by decide

/-- An accepted START changes both latches. -/
theorem witness_LatchesHoldDuringARun :
    ∃ t, step (withTurns [.host (.start 0x1000001021#40)] State.reset) = .next t ∧ t.wsel ≠ State.reset.wsel ∧
      t.poly ≠ State.reset.poly := ⟨_, rfl, by decide, by decide⟩

theorem witness_Width8RunLeavesTheShadow :
    (nextOf (step (st .div .w8 0x9B 0xFF 0xABCD 255 0 []))).isSome = true ∧
    (st .div .w8 0x9B 0xFF 0xABCD 255 0 []).wsel = .w8 ∧
    (∀ x ∈ (st .div .w8 0x9B 0xFF 0xABCD 255 0 []).turns.head?, x.isReset = false) := by decide

theorem witness_OnlyStoreWritesTheTable :
    ∃ t, step (st .store .w8 0 0x9B 0 1 0 [(0, .w8 0)]) = .next t ∧
      Memory.read t.table 1 ≠ Memory.read (st .store .w8 0 0x9B 0 1 0 [(0, .w8 0)]).table 1 ∧
      (st .store .w8 0 0x9B 0 1 0 [(0, .w8 0)]).phase.busy = true := ⟨_, rfl, by decide, by decide⟩

theorem witness_OnlyTheLastStoreReachesDone :
    ∃ t, step (st .store .w16 0 0x1EF0 0 255 0 []) = .next t ∧ t.phase = .done ∧
      (st .store .w16 0 0x1EF0 0 255 0 []).phase ≠ .done := ⟨_, rfl, rfl, by decide⟩

theorem witness_TableConstantWhileDone :
    (st .done .w8 0 0 0 255 0 []).phase = .done ∧
      (nextOf (step (withTurns [.host .poll] (st .done .w8 0 0 0 255 0 [])))).isSome = true := by decide

/-- A BUSY state with each of the three actions next. -/
theorem witness_HostCannotTouchARun :
    ∀ q ∈ [Request.poll, .start 0x0800000000#40, .rdtab 0],
      (withTurns [.host q] (st .div .w8 0 0 0 0 0 [])).phase.busy = true ∧
      (withTurns [.host q] (st .div .w8 0 0 0 0 0 [])).turns = .host q :: [] := by decide

/-- BUSY at the start of a run and in an unreached state. -/
theorem witness_EveryRunComesToDone :
    seeded.phase.busy = true ∧ seeded.turns = [] ∧ remaining seeded = 2560 ∧
    (st .store .w8 0xFFFF 0 0 255 3 []).phase.busy = true ∧ remaining (st .store .w8 0xFFFF 0 0 255 3 []) = 1 := by
  decide

theorem witness_ShapeOfARun :
    seeded.phase = .seed ∧ seeded.i = 0 ∧ seeded.k = 0 ∧ (∀ j, Memory.read seeded.table j = none) ∧ seeded.turns = [] :=
  ⟨rfl, rfl, rfl, fun _ => rfl, rfl⟩

/-- 2559 micro-steps with a POLL, a refused START and a refused RDTAB before them. -/
theorem witness_AcceptedStartBuildsTheTable :
    ∃ ts : List Turn, seqTurns ts = 2559 ∧ (∀ x ∈ ts, x.isReset = false) ∧
      (withTurns (.host (.start 0x1000001021#40) :: ts ++ .seq :: []) State.reset).turns =
        .host (.start 0x1000001021#40) :: ts ++ .seq :: [] ∧
      State.reset.phase.busy = false ∧ (0x1000001021#40).toNat / 2 ^ 32 = Width.w16.bits := by
  refine ⟨.host .poll :: .host (.start 0#40) :: .host (.rdtab 0) :: List.replicate 2559 .seq, ?_, ?_, rfl, rfl, by decide⟩
  · rw [seqTurns, List.countP_cons_of_neg (by decide), List.countP_cons_of_neg (by decide),
      List.countP_cons_of_neg (by decide), List.countP_replicate]
    rfl
  · intro x hx
    simp only [List.mem_cons, List.mem_replicate] at hx
    rcases hx with rfl | rfl | rfl | ⟨-, rfl⟩ <;> rfl

/-- Two power-on states that differ in every unspecified element. -/
theorem witness_RunIgnoresUnspecifiedElements :
    State.reset.phase.busy = false ∧ State.reset.phase = (st .idle .w16 1 2 3 4 5 []).phase ∧
    State.reset.table = (st .idle .w16 1 2 3 4 5 []).table ∧ State.reset.turns = (st .idle .w16 1 2 3 4 5 []).turns ∧
    State.reset.replies = (st .idle .w16 1 2 3 4 5 []).replies := by decide

/-- GEN8 0x9B in IDLE and GEN8 0x19B in DONE. -/
theorem witness_SameCommandSameTable :
    (withTurns [.host (.start 0x080000009B#40)] State.reset).phase.busy = false ∧
    (withTurns [.host (.start 0x080000019B#40)] (st .done .w16 7 7 7 255 0 [])).phase.busy = false ∧
    (0x080000009B#40).toNat / 2 ^ 32 = Width.w8.bits ∧ (0x080000019B#40).toNat / 2 ^ 32 = Width.w8.bits ∧
    (0x080000009B#40).toNat % 2 ^ Width.w8.bits = (0x080000019B#40).toNat % 2 ^ Width.w8.bits := by decide

/-- DONE after GEN8 0: the all-zero table (V8-4). -/
def doneZero : State := st .done .w8 0 0 0 255 0 ((List.range 256).map fun j => (j, .w8 0))

/-- Reading a table listed from an index on. -/
theorem read_listed (j n a : Nat) (h : a ≤ j) (hj : j < a + n) :
    Memory.read ((List.range' a n).map fun k => (k, Entry.w8 0)) j = some (.w8 0) := by
  induction n generalizing a with
  | zero => omega
  | succ n ih =>
    rw [List.range'_succ, List.map_cons, Memory.read_cons]
    split
    · rfl
    · exact ih (a + 1) (by omega) (by omega)

/-- Every entry of `doneZero` that reads at all is the zero of width 8. -/
theorem doneZero_contained (m : List Nat) (j : Nat) (e : Entry)
    (h : Memory.read (m.map fun k => (k, Entry.w8 0)) j = some e) : e = .w8 0 := by
  induction m with
  | nil => cases h
  | cons k m ih =>
    rw [List.map_cons, Memory.read_cons] at h
    split at h
    · exact (Option.some.inj h).symm
    · exact ih h

theorem doneZero_invariants : Invariants doneZero where
  tableWf := by
    refine ⟨?_, fun c hc => ?_⟩
    · exact List.pairwise_map.mpr List.pairwise_lt_range
    · obtain ⟨j, hj, rfl⟩ := List.mem_map.mp hc
      exact List.mem_range.mp hj
  highR := fun _ _ => by decide
  highPoly := fun _ _ => by decide
  shadow := fun h => by cases h
  entries := fun j hj => by
    refine ⟨fun _ => ⟨.w8 0, ?_, ?_⟩, fun h => absurd hj (Nat.not_lt.mpr h)⟩
    · have := read_listed j 256 0 (Nat.zero_le j) (by omega)
      rwa [← List.range_eq_range'] at this
    · show 0 = T8entry 0 j
      simp only [T8entry, iter8, next8, Nat.xor_zero, ite_self]
      omega
  doneCounters := fun _ => ⟨rfl, rfl⟩
  roundCounter := fun h => by rcases h with h | h <;> cases h
  contained := fun j e h => by
    rw [doneZero_contained _ j e h]
    exact ⟨rfl, by decide⟩
  round8 := fun _ h => by cases h
  round16 := fun h => by cases h
  finished := fun _ => by decide
  shadowOut := fun h => by cases h

theorem witness_RdtabReturnsTheContract : Invariants doneZero ∧ doneZero.phase = .done := ⟨doneZero_invariants, rfl⟩

/-- Enough micro-steps for the run, one too few, and none. -/
theorem witness_BootDeliversTheTable :
    2560 ≤ [0, 2559, 1].sum ∧ [0, 2559].sum < 2560 ∧ ([] : List Nat).sum < 2560 := by decide

/-- WAIT in IDLE, in DONE at its first POLL, and in a run at its second. -/
theorem witness_WaitPollsUntilDone :
    State.reset.phase = .idle ∧ doneZero.phase ≠ .idle ∧ (Pseudo.wait [0]).turns doneZero = some [.host .poll] ∧
      (Pseudo.wait [0, 1]).turns (st .store .w8 0 0 0 255 0 []) = some [.host .poll, .seq, .host .poll] :=
  ⟨rfl, by decide, rfl, by decide⟩

/-- Two instances, the first one steps, and so can the second. -/
theorem witness_InstancesAreIndependent :
    (0 : Nat) ≠ 1 ∧ stepInstance 0 [State.reset, seeded] = .next [State.reset, seeded] ∧
      stepInstance 1 [State.reset, seeded] = .next [State.reset, enterDiv { seeded with r := 0 }] := ⟨by decide, rfl, rfl⟩

/-- An instance in IDLE whose RDTAB is refused, and one beside it; both forms of its step. -/
theorem witness_InstancesGoOnPastARefusal :
    step (withTurns [.host (.rdtab 3)] State.reset) = .refused .tableNotReady ∧
      hwStepInstance 0 [⟨withTurns [.host (.rdtab 3)] State.reset, []⟩, ⟨seeded, []⟩] =
        .next [⟨State.reset, [.tableNotReady]⟩, ⟨seeded, []⟩] ∧
      stepInstance 0 [withTurns [.host (.rdtab 3)] State.reset, seeded] = .refused .tableNotReady := ⟨rfl, rfl, rfl⟩

/-- Polynomials and indices at the ends of their ranges, for the table laws. -/
theorem witness_table_laws :
    0xFF < 2 ^ Width.w8.bits ∧ 0xFFFF < 2 ^ Width.w16.bits ∧ 0 < 2 ^ Width.w8.bits ∧ (255 : Nat) < 256 ∧ (0 : Nat) < 256 ∧
      (6 : Nat) < 7 ∧ (1 : Nat) ≠ 0 ∧ (0xFF : Nat) ≠ 0 ∧ (1 : Nat) ≠ 0xFF := by decide

/-- A seed for the shadow form: width 16, low byte zero. -/
theorem witness_ShadowFormEqualsPlainForm :
    0 < 16 ∧ 8 ≤ 16 ∧ 0x1021 < 2 ^ 16 ∧ 0xFF00 < 2 ^ 16 ∧ 0xFF00 % 2 ^ (16 - 8) = 0 := by decide

theorem witness_GenerateIsTotalOnItsWidths : (8 = 8 ∨ 8 = 16) ∧ 12 ≠ 8 ∧ 12 ≠ 16 := by decide

/-- The message "123456789" and the start values 0x0000 and 0xFFFF. -/
theorem witness_TableDrivenCrcEqualsBitSerial :
    0x9B < 2 ^ 8 ∧ 0xFF < 2 ^ 8 ∧ 0x1021 < 2 ^ 16 ∧ 0xFFFF < 2 ^ 16 ∧
      ∀ m ∈ [0x31, 0x32, 0x33, 0x34, 0x35, 0x36, 0x37, 0x38, 0x39], m < 256 := by decide

end Sys2Proof.Tests
end

section
/-! The host's side of the step: on its turn, what runs is what the presented action decodes to. -/

namespace Sys2Proof.Machine

/-- A legal host action is run (`spec/30_encoding.md` R68). -/
theorem hostTurn_of_decode_instr {q : Request} {i : Instr} (h : decode (.host q) = .instr i) (s : State) :
    hostTurn q s = exec i s := by
  simp only [hostTurn, h]

/-- Settles O7: the step hands the host's turn to `hostTurn`, which runs what the action decodes to. -/
theorem stepRunsTheHostAction : Obligations.StepRunsTheHostAction := by
  intro s q ts i hturns hdecode
  calc step s = hostTurn q { s with turns := ts } := step_host hturns
    _ = exec i { s with turns := ts } := hostTurn_of_decode_instr hdecode _

end Sys2Proof.Machine
end

section
/-! The sequencer's turn, an equation for each micro-operation (`spec/43_store_and_sequencing.md` R121), and for each
case of a counter. -/

namespace Sys2Proof.Machine

theorem sequencerTurn_wait {s : State} (hp : s.phase = .idle ∨ s.phase = .done) : sequencerTurn s = .next s := by
  rw [sequencerTurn_eq]
  rcases hp with hp | hp <;> simp only [hp]

theorem sequencerTurn_seed8 {s : State} (hp : s.phase = .seed) (hw : s.wsel = .w8) :
    sequencerTurn s = .next (enterDiv { s with r := seedLow s.i }) := by
  simp only [sequencerTurn_eq, hp, hw, exec, execSeed8]

theorem sequencerTurn_seed16 {s : State} (hp : s.phase = .seed) (hw : s.wsel = .w16) :
    sequencerTurn s = .next (enterDiv { s with r := 0, b := seedHigh s.i }) := by
  simp only [sequencerTurn_eq, hp, hw, exec, execSeed16]

theorem sequencerTurn_div8 {s : State} (hp : s.phase = .div) (hw : s.wsel = .w8) :
    sequencerTurn s = .next (countRound { s with r := zext16 (round8 (low8 s.poly) (low8 s.r)) }) := by
  simp only [sequencerTurn_eq, hp, hw, exec, execDiv8]

theorem sequencerTurn_div16 {s : State} (hp : s.phase = .div) (hw : s.wsel = .w16) :
    sequencerTurn s = .next (countRound { s with r := round16 s.poly s.r s.b, b := shl s.b }) := by
  simp only [sequencerTurn_eq, hp, hw, exec, execDiv16]

theorem sequencerTurn_store {s : State} (hp : s.phase = .store) :
    sequencerTurn s = .next (nextEntry { s with table := Memory.write s.table s.i.toNat (entryOf s.wsel s.r) }) := by
  simp only [sequencerTurn_eq, hp, exec, execStore]

theorem toNat_add_one_of_ne_seven {k : BitVec 3} (hk : k ≠ 7) : (k + 1).toNat = k.toNat + 1 := by
  bv_omega

theorem toNat_add_one_of_ne_255 {i : Byte} (hi : i ≠ 255) : (i + 1).toNat = i.toNat + 1 := by
  bv_omega

theorem countRound_eighth {s : State} (hk : s.k = 7) : countRound s = { s with k := 0, phase := .store } :=
  if_pos hk

theorem countRound_more {s : State} (hk : s.k ≠ 7) : countRound s = { s with k := s.k + 1 } :=
  if_neg hk

theorem nextEntry_last {s : State} (hi : s.i = 255) : nextEntry s = { s with phase := .done } :=
  if_pos hi

theorem nextEntry_more {s : State} (hi : s.i ≠ 255) : nextEntry s = { s with i := s.i + 1, phase := .seed } :=
  if_neg hi

end Sys2Proof.Machine
end

section
/-! What a step can do, said once, guards and all: every effect of one step, and the turn that was over. The facts about
one step are read off its cases. -/

namespace Sys2Proof.Machine

/-- The effects of one step that goes on, by who moved. A turn that is not the host's is the sequencer's. -/
inductive Move (s : State) : State → Prop
  | wait (hturn : ∀ x ∈ s.turns.head?, x = .seq) (hp : s.phase = .idle ∨ s.phase = .done) : Move s (dropTurn s)
  | seed8 (hturn : ∀ x ∈ s.turns.head?, x = .seq) (hp : s.phase = .seed) (hw : s.wsel = .w8) :
      Move s (enterDiv { dropTurn s with r := seedLow s.i })
  | seed16 (hturn : ∀ x ∈ s.turns.head?, x = .seq) (hp : s.phase = .seed) (hw : s.wsel = .w16) :
      Move s (enterDiv { dropTurn s with r := 0, b := seedHigh s.i })
  | div8 (hturn : ∀ x ∈ s.turns.head?, x = .seq) (hp : s.phase = .div) (hw : s.wsel = .w8) :
      Move s (countRound { dropTurn s with r := zext16 (round8 (low8 s.poly) (low8 s.r)) })
  | div16 (hturn : ∀ x ∈ s.turns.head?, x = .seq) (hp : s.phase = .div) (hw : s.wsel = .w16) :
      Move s (countRound { dropTurn s with r := round16 s.poly s.r s.b, b := shl s.b })
  | store (hturn : ∀ x ∈ s.turns.head?, x = .seq) (hp : s.phase = .store) :
      Move s (nextEntry { dropTurn s with table := Memory.write s.table s.i.toNat (entryOf s.wsel s.r) })
  | poll (hturn : s.turns.head? = some (.host .poll)) : Move s (returnToHost (.status s.phase.status) (dropTurn s))
  | rdtab (idx : Byte) (e : Entry) (hturn : s.turns.head? = some (.host (.rdtab idx))) (hp : s.phase = .done)
      (he : Memory.read s.table idx.toNat = some e) : Move s (returnToHost (.entry (portValue e)) (dropTurn s))
  | start (cmd : CmdWord) (w : Width) (hturn : s.turns.head? = some (.host (.start cmd))) (hb : s.phase.busy = false)
      (hw : (widthField cmd).toNat = w.bits) : Move s (acceptStart w (polyField cmd).toNat (dropTurn s))
  | reset (x : Turn) (hturn : s.turns.head? = some x) (hx : x.isReset = true) : Move s (resetBlock (dropTurn s))

/-- The sequencer's turn is a move. -/
theorem Move.of_sequencerTurn {s t : State} (hturn : ∀ x ∈ s.turns.head?, x = .seq)
    (h : sequencerTurn (dropTurn s) = .next t) : Move s t := by
  rcases sequencerTurn_cases (dropTurn s) with
    ⟨hp, heq⟩ | ⟨hp, hw, heq⟩ | ⟨hp, hw, heq⟩ | ⟨hp, hw, heq⟩ | ⟨hp, hw, heq⟩ | ⟨hp, heq⟩ <;>
    rw [heq] at h <;> cases h
  · exact .wait hturn hp
  · exact .seed8 hturn hp hw
  · exact .seed16 hturn hp hw
  · exact .div8 hturn hp hw
  · exact .div16 hturn hp hw
  · exact .store hturn hp

/-- A START that goes on has a legal width and is accepted (R85). -/
theorem hostTurn_start_eq_next {cmd : CmdWord} {s t : State} (h : hostTurn (.start cmd) s = .next t) :
    ∃ w : Width, s.phase.busy = false ∧ (widthField cmd).toNat = w.bits ∧
      t = acceptStart w (polyField cmd).toNat s := by
  rw [hostTurn_start] at h
  split at h
  · obtain ⟨hb, ht⟩ := startRun_eq_next h
    exact ⟨.w8, hb, by simp_all [Width.bits], ht⟩
  · split at h
    · obtain ⟨hb, ht⟩ := startRun_eq_next h
      exact ⟨.w16, hb, by simp_all [Width.bits], ht⟩
    · rcases refuseStart_cases s with ⟨-, hr⟩ | ⟨-, hr⟩ <;> rw [hr] at h <;> cases h

/-- An RDTAB that goes on reads a written entry in DONE (R86). -/
theorem execRdtab_eq_next {idx : Byte} {s t : State} (h : execRdtab idx s = .next t) :
    ∃ e, s.phase = .done ∧ Memory.read s.table idx.toNat = some e ∧
      t = returnToHost (.entry (portValue e)) s := by
  rcases execRdtab_cases idx s with ⟨e, hp, he, heq⟩ | ⟨-, -, heq⟩ | ⟨-, heq⟩ <;> rw [heq] at h <;> cases h
  exact ⟨e, hp, he, rfl⟩

/-- The host's turn is a move. -/
theorem Move.of_hostTurn {q : Request} {s t : State} (hturn : s.turns.head? = some (.host q))
    (h : hostTurn q (dropTurn s) = .next t) : Move s t := by
  cases q with
  | reset =>
    cases h
    exact .reset _ hturn rfl
  | poll =>
    cases h
    exact .poll hturn
  | start cmd =>
    obtain ⟨w, hb, hw, rfl⟩ := hostTurn_start_eq_next h
    exact .start cmd w hturn hb hw
  | rdtab idx =>
    obtain ⟨e, hp, he, rfl⟩ := execRdtab_eq_next h
    exact .rdtab idx e hturn hp he

/-- The rest of the turns is what is left when the next one is over. -/
theorem withTurns_eq_dropTurn {s : State} {ts : List Turn} (h : s.turns.tail = ts) :
    { s with turns := ts } = dropTurn s := by
  subst h
  rfl

/-- Every step that goes on is one of the moves. -/
theorem step_move {s t : State} (h : step s = .next t) : Move s t := by
  rcases step_turn s with ⟨ts, hts, heq⟩ | ⟨q, ts, hts, heq⟩ | ⟨q, ts, hts, heq⟩
  · have htail : s.turns.tail = ts := by rcases hts with ⟨hnil, rfl⟩ | hseq <;> simp [*]
    have hturn : ∀ x ∈ s.turns.head?, x = .seq := by rcases hts with ⟨hnil, -⟩ | hseq <;> simp [*]
    rw [heq, withTurns_eq_dropTurn htail] at h
    exact .of_sequencerTurn hturn h
  · rw [heq, withTurns_eq_dropTurn (by simp [hts])] at h
    exact .of_hostTurn (by simp [hts]) h
  · rw [heq, withTurns_eq_dropTurn (by simp [hts])] at h
    cases h
    exact .reset (.resetWith q) (by simp [hts]) rfl

end Sys2Proof.Machine
end

section
/-! The latches and the shadow register over one step (`spec/10_state.md` R22, R27, R28). -/

namespace Sys2Proof.Machine

/-- Settles O31: of the moves only an accepted START and RESET write `WSEL` or `POLY`. -/
theorem latchesHoldDuringARun : Obligations.LatchesHoldDuringARun := by
  intro s t hstep hchange
  cases step_move hstep with
  | reset x hturn hx => exact .inl ⟨x, hturn, hx⟩
  | start cmd w hturn hb hw =>
    obtain ⟨ts, hts⟩ := List.head?_eq_some_iff.mp hturn
    exact .inr ⟨cmd, ts, hts, hb, rfl⟩
  | wait | seed8 | seed16 | div8 | div16 | store | poll | rdtab => simp at hchange

/-- Settles O32: of the moves only RESET and the two of width 16 write `B`. -/
theorem width8RunLeavesTheShadow : Obligations.Width8RunLeavesTheShadow := by
  intro s t hstep hw8 hnoReset
  cases step_move hstep with
  | reset x hturn hx => exact absurd hx (by simp [hnoReset x hturn])
  | seed16 hturn hp hw16 => exact absurd (hw8.symm.trans hw16) (by decide)
  | div16 hturn hp hw16 => exact absurd (hw8.symm.trans hw16) (by decide)
  | wait | seed8 | div8 | store | poll | rdtab | start => simp

end Sys2Proof.Machine
end

section
/-! Instances side by side (`spec/10_state.md` R35): the step of one, for each case of its own step. -/

namespace Sys2Proof.Machine

theorem stepInstance_none {k : Nat} {ms : List State} (h : ms[k]? = none) : stepInstance k ms = .next ms := by
  simp only [stepInstance, h]

theorem stepInstance_next {k : Nat} {ms : List State} {s t : State} (hk : ms[k]? = some s) (h : step s = .next t) :
    stepInstance k ms = .next (ms.set k t) := by
  simp only [stepInstance, hk, h]

/-- A step of one block of the product keeps their number. -/
theorem length_of_stepInstance {k : Nat} {ms ns : List State} (h : stepInstance k ms = .next ns) :
    ns.length = ms.length := by
  rcases stepInstance_eq_next h with ⟨-, rfl⟩ | ⟨s, t, -, -, rfl⟩ <;> simp

/-- A step of one block of the product leaves every other one. -/
theorem getElem?_of_stepInstance_other {k l : Nat} {ms ns : List State} (hkl : k ≠ l)
    (h : stepInstance k ms = .next ns) : ns[l]? = ms[l]? := by
  rcases stepInstance_eq_next h with ⟨-, rfl⟩ | ⟨s, t, -, -, rfl⟩ <;> simp [hkl]

/-- A step of one block of the product is its own step. -/
theorem getElem?_of_stepInstance_same {k : Nat} {ms ns : List State} {s : State} (h : stepInstance k ms = .next ns)
    (hk : ms[k]? = some s) : ∃ t, step s = .next t ∧ ns[k]? = some t := by
  rcases stepInstance_eq_next h with ⟨hnone, -⟩ | ⟨s', t, hs', ht, rfl⟩
  · simp [hk] at hnone
  · obtain rfl : s = s' := by simpa [hk] using hs'
    obtain ⟨hlt, -⟩ := List.getElem?_eq_some_iff.mp hk
    exact ⟨t, ht, by simp [hlt]⟩

/-- Steps of two blocks of the product commute. -/
theorem stepInstance_comm {k l : Nat} {ms ns ns' : List State} (hkl : k ≠ l) (hk : stepInstance k ms = .next ns)
    (hl : stepInstance l ms = .next ns') : ∃ os, stepInstance l ns = .next os ∧ stepInstance k ns' = .next os := by
  have hnsl := getElem?_of_stepInstance_other hkl hk
  have hnsk := getElem?_of_stepInstance_other hkl.symm hl
  rcases stepInstance_eq_next hk with ⟨hnone, rfl⟩ | ⟨s, t, hs, ht, rfl⟩
  · exact ⟨ns', hl, stepInstance_none (hnsk.trans hnone)⟩
  · rcases stepInstance_eq_next hl with ⟨hnone', rfl⟩ | ⟨s', t', hs', ht', rfl⟩
    · exact ⟨_, stepInstance_none (hnsl.trans hnone'), hk⟩
    · refine ⟨(ms.set k t).set l t', stepInstance_next (hnsl.trans hs') ht', ?_⟩
      rw [List.set_comm t t' hkl]
      exact stepInstance_next (hnsk.trans hs) ht

/-- Settles O44: a step of one block of the product, when it goes on, sets that block and nothing else. -/
theorem instancesAreIndependent : Obligations.InstancesAreIndependent := by
  intro k l ms ns hkl hstep
  exact ⟨length_of_stepInstance hstep, getElem?_of_stepInstance_other hkl hstep,
    fun _ hk => getElem?_of_stepInstance_same hstep hk, fun _ hl => stepInstance_comm hkl hstep hl⟩

/-- The hardware as decided refuses no step: a refusal is kept as a mark. -/
theorem hwStep_ne_refused (m : Marked) (r : Refusal) : hwStep m ≠ .refused r := by
  unfold hwStep
  split <;> simp

theorem hwStepInstance_ne_refused (k : Nat) (ms : List Marked) (r : Refusal) : hwStepInstance k ms ≠ .refused r := by
  unfold hwStepInstance
  split
  · simp
  · split
    · simp
    · simp
    · exact absurd ‹_› (hwStep_ne_refused _ _)

theorem hwStepInstance_next {k : Nat} {ms : List Marked} {m m' : Marked} (hk : ms[k]? = some m)
    (h : hwStep m = .next m') : hwStepInstance k ms = .next (ms.set k m') := by
  simp only [hwStepInstance, hk, h]

/-- Settles O57: a refused step of one block is a step of the hardware that goes on, with the mark. -/
theorem instancesGoOnPastARefusal : Obligations.InstancesGoOnPastARefusal := by
  intro k ms
  refine ⟨hwStepInstance_ne_refused k ms, fun m r hk hr => ?_, fun ns h => ?_⟩
  · obtain ⟨hlt, -⟩ := List.getElem?_eq_some_iff.mp hk
    exact ⟨_, hwStepInstance_next hk (hwStep_refused hr), List.getElem?_set_self hlt⟩
  · rcases hwStepInstance_eq_next h with ⟨-, rfl⟩ | ⟨m, m', -, -, rfl⟩
    · exact ⟨rfl, fun _ _ => rfl⟩
    · exact ⟨List.length_set, fun l hl => List.getElem?_set_ne hl.symm⟩

end Sys2Proof.Machine
end

section
/-! A run does not depend on the unspecified elements (`spec/10_state.md` R36, R37): a simulation between two runs whose
states agree on every element the phase still reads. -/

namespace Sys2Proof.Machine

/-- The two states agree on what the host sees and on the elements that a later micro-operation reads before it writes
them: the latches and `I` while BUSY, `K` in DIV, `R` in DIV and STORE, `B` in DIV of a width-16 run. -/
structure SameLive (s t : State) : Prop where
  phase : s.phase = t.phase
  table : s.table = t.table
  turns : s.turns = t.turns
  replies : s.replies = t.replies
  latches : s.phase.busy = true → s.wsel = t.wsel ∧ s.poly = t.poly ∧ s.i = t.i
  rounds : s.phase = .div → s.k = t.k
  working : s.phase = .div ∨ s.phase = .store → s.r = t.r
  shadow : s.phase = .div → s.wsel = .w16 → s.b = t.b

/-- Two outcomes of the same kind, with states that agree where they go on and the same reason where they stop. -/
inductive SameEnd : Host.Outcome State Fault Refusal → Host.Outcome State Fault Refusal → Prop
  | next {s t : State} (h : SameLive s t) : SameEnd (.next s) (.next t)
  | fault (f : Fault) : SameEnd (.fault f) (.fault f)
  | refused (q : Refusal) : SameEnd (.refused q) (.refused q)

/-- Outside BUSY nothing is left to read. -/
theorem SameLive.of_not_busy {s t : State} (hb : s.phase.busy = false) (hphase : s.phase = t.phase)
    (htable : s.table = t.table) (hturns : s.turns = t.turns) (hreplies : s.replies = t.replies) : SameLive s t where
  phase := hphase
  table := htable
  turns := hturns
  replies := hreplies
  latches h := absurd h (by simp [hb])
  rounds h := by simp [h, Phase.busy] at hb
  working h := by rcases h with h | h <;> simp [h, Phase.busy] at hb
  shadow h := by simp [h, Phase.busy] at hb

theorem SameLive.sameView {s t : State} (h : SameLive s t) : sameView s t :=
  ⟨congrArg _ h.phase, h.replies, h.turns, fun _ _ => by rw [h.table]⟩

/-! ## The shared operations -/

theorem SameLive.withTurns {s t : State} (h : SameLive s t) (ts : List Turn) :
    SameLive { s with turns := ts } { t with turns := ts } :=
  { h with turns := rfl }

theorem sameLive_returnToHost {s t : State} (h : SameLive s t) (v : Reply) :
    SameLive (returnToHost v s) (returnToHost v t) :=
  { h with replies := congrArg (v :: ·) h.replies }

theorem sameLive_resetBlock {s t : State} (h : SameLive s t) : SameLive (resetBlock s) (resetBlock t) :=
  .of_not_busy rfl rfl rfl h.turns h.replies

theorem sameLive_acceptStart {s t : State} (h : SameLive s t) (w : Width) (p : Nat) :
    SameLive (acceptStart w p s) (acceptStart w p t) where
  phase := rfl
  table := rfl
  turns := h.turns
  replies := h.replies
  latches _ := ⟨rfl, rfl, rfl⟩
  rounds h := by cases h
  working h := by rcases h with h | h <;> cases h
  shadow h := by cases h

/-! ## The host's turn -/

theorem sameEnd_startRun {s t : State} (h : SameLive s t) (w : Width) (p : Nat) :
    SameEnd (startRun w p s) (startRun w p t) := by
  unfold startRun
  rw [← h.phase]
  split
  · exact .refused _
  · exact .next (sameLive_acceptStart h w p)

theorem sameEnd_refuseStart {s t : State} (h : SameLive s t) : SameEnd (refuseStart s) (refuseStart t) := by
  unfold refuseStart
  rw [← h.phase]
  split <;> exact .refused _

theorem sameEnd_execRdtab {s t : State} (h : SameLive s t) (idx : Byte) :
    SameEnd (execRdtab idx s) (execRdtab idx t) := by
  unfold execRdtab
  rw [← h.phase, ← h.table]
  split
  · cases Memory.read s.table idx.toNat with
    | some e => exact .next (sameLive_returnToHost h _)
    | none => exact .fault _
  · exact .refused _

theorem sameEnd_hostTurn {s t : State} (h : SameLive s t) (q : Request) :
    SameEnd (hostTurn q s) (hostTurn q t) := by
  cases q with
  | reset => exact .next (sameLive_resetBlock h)
  | poll =>
    rw [hostTurn_poll, hostTurn_poll, h.phase]
    exact .next (sameLive_returnToHost h _)
  | start cmd =>
    rw [hostTurn_start, hostTurn_start]
    split
    · exact sameEnd_startRun h _ _
    · split
      · exact sameEnd_startRun h _ _
      · exact sameEnd_refuseStart h
  | rdtab idx => exact sameEnd_execRdtab h idx

/-! ## The sequencer's turn -/

/-- The end of a SEED step: the seeds agree, and `K` is 0 in both. -/
theorem sameLive_enterDiv {s t : State} (h : SameLive s t) (hp : s.phase = .seed) {r r' b b' : Word16}
    (hr : r = r') (hb : s.wsel = .w16 → b = b') :
    SameLive (enterDiv { s with r := r, b := b }) (enterDiv { t with r := r', b := b' }) where
  phase := rfl
  table := h.table
  turns := h.turns
  replies := h.replies
  latches _ := h.latches (by simp [hp, Phase.busy])
  rounds _ := rfl
  working _ := hr
  shadow _ := hb

/-- The end of a DIV step: the new registers agree, and `K` counts alike. -/
theorem sameLive_countRound {s t : State} (h : SameLive s t) (hp : s.phase = .div) {r r' b b' : Word16}
    (hr : r = r') (hb : s.wsel = .w16 → b = b') :
    SameLive (countRound { s with r := r, b := b }) (countRound { t with r := r', b := b' }) where
  phase := by simp [countRound_phase, h.rounds hp, h.phase]
  table := by simp [h.table]
  turns := by simp [h.turns]
  replies := by simp [h.replies]
  latches _ := by simpa using h.latches (by simp [hp, Phase.busy])
  rounds _ := by simp [countRound_k, h.rounds hp]
  working _ := by simp [hr]
  shadow _ := by simpa using hb

/-- The end of a STORE step: the tables agree, and `I` counts alike. -/
theorem sameLive_nextEntry {s t : State} (h : SameLive s t) (hp : s.phase = .store) {m m' : Memory}
    (hm : m = m') : SameLive (nextEntry { s with table := m }) (nextEntry { t with table := m' }) := by
  obtain ⟨hwsel, hpoly, hi⟩ := h.latches (by simp [hp, Phase.busy])
  exact {
    phase := by simp [nextEntry_phase, hi]
    table := by simp [hm]
    turns := by simp [h.turns]
    replies := by simp [h.replies]
    latches := fun _ => by simp [nextEntry_i, hwsel, hpoly, hi]
    rounds := fun hdiv => by simp [nextEntry_phase, ite_eq_iff] at hdiv
    working := fun hlive => by simp [nextEntry_phase, ite_eq_iff] at hlive
    shadow := fun hdiv => by simp [nextEntry_phase, ite_eq_iff] at hdiv }

theorem sameEnd_sequencerTurn {s t : State} (h : SameLive s t) : SameEnd (sequencerTurn s) (sequencerTurn t) := by
  rcases sequencerTurn_cases s with
    ⟨hp, heq⟩ | ⟨hp, hw, heq⟩ | ⟨hp, hw, heq⟩ | ⟨hp, hw, heq⟩ | ⟨hp, hw, heq⟩ | ⟨hp, heq⟩ <;>
    rw [heq]
  · rw [sequencerTurn_wait (h.phase ▸ hp)]
    exact .next h
  · obtain ⟨hwsel, -, hi⟩ := h.latches (by simp [hp, Phase.busy])
    rw [sequencerTurn_seed8 (h.phase ▸ hp) (hwsel ▸ hw)]
    exact .next (sameLive_enterDiv h hp (by rw [hi]) (by simp [hw]))
  · obtain ⟨hwsel, -, hi⟩ := h.latches (by simp [hp, Phase.busy])
    rw [sequencerTurn_seed16 (h.phase ▸ hp) (hwsel ▸ hw)]
    exact .next (sameLive_enterDiv h hp rfl fun _ => by rw [hi])
  · obtain ⟨hwsel, hpoly, -⟩ := h.latches (by simp [hp, Phase.busy])
    rw [sequencerTurn_div8 (h.phase ▸ hp) (hwsel ▸ hw)]
    exact .next (sameLive_countRound h hp (by rw [hpoly, h.working (.inl hp)]) (by simp [hw]))
  · obtain ⟨hwsel, hpoly, -⟩ := h.latches (by simp [hp, Phase.busy])
    rw [sequencerTurn_div16 (h.phase ▸ hp) (hwsel ▸ hw)]
    have hshadow := h.shadow hp hw
    exact .next (sameLive_countRound h hp (by rw [hpoly, h.working (.inl hp), hshadow]) fun _ => by rw [hshadow])
  · obtain ⟨hwsel, -, hi⟩ := h.latches (by simp [hp, Phase.busy])
    rw [sequencerTurn_store (h.phase ▸ hp)]
    exact .next (sameLive_nextEntry h hp (by rw [h.table, hwsel, hi, h.working (.inr hp)]))

/-! ## Steps and runs -/

/-- A step of two states that agree ends alike. -/
theorem sameEnd_step {s t : State} (h : SameLive s t) : SameEnd (step s) (step t) := by
  cases hs : s.turns with
  | nil =>
    rw [step_nil hs, step_nil (h.turns.symm.trans hs)]
    exact sameEnd_sequencerTurn h
  | cons x ts =>
    have ht := h.turns.symm.trans hs
    cases x with
    | seq =>
      rw [step_seq hs, step_seq ht]
      exact sameEnd_sequencerTurn (h.withTurns ts)
    | host q =>
      rw [step_host hs, step_host ht]
      exact sameEnd_hostTurn (h.withTurns ts) q
    | resetWith q =>
      rw [step_resetWith hs, step_resetWith ht]
      exact .next (sameLive_resetBlock (h.withTurns ts))

theorem SameEnd.sameOutcome {o o' : Host.Outcome State Fault Refusal} (h : SameEnd o o') : sameOutcome o o' := by
  cases h with
  | next h => exact h.sameView
  | fault f => rfl
  | refused q => rfl

/-- Runs of two states that agree end alike. -/
theorem sameEnd_run {s t : State} (h : SameLive s t) (n : Nat) : SameEnd (run n s) (run n t) := by
  induction n generalizing s t with
  | zero => exact .next h
  | succ n ih =>
    have hstep := sameEnd_step h
    unfold run
    generalize step s = o, step t = o' at hstep ⊢
    cases hstep with
    | next h' => exact ih h'
    | fault f => exact .fault f
    | refused q => exact .refused q

/-- Settles O40: outside BUSY two such states agree on all that a run reads, and a step keeps that. -/
theorem runIgnoresUnspecifiedElements : Obligations.RunIgnoresUnspecifiedElements := by
  intro n s t hb hphase htable hturns hreplies
  exact (sameEnd_run (.of_not_busy hb hphase htable hturns hreplies) n).sameOutcome

end Sys2Proof.Machine
end

section
/-! The contract's iterations (`spec/40_commands.md` R81, R82): their ranges, and the shadow register's closed form. -/

namespace Sys2Proof.Machine

/-- A width-8 round of the contract stays within 8 bits. -/
theorem next8_lt {p r : Nat} (hp : p < 2 ^ 8) : next8 p r < 2 ^ 8 := by
  have hshift : 2 * r % 2 ^ 8 < 2 ^ 8 := Nat.mod_lt _ (by decide)
  unfold next8
  split
  · exact Nat.xor_lt_two_pow hshift hp
  · exact hshift

theorem iter8_lt {p i : Nat} (hp : p < 2 ^ 8) (hi : i < 2 ^ 8) (k : Nat) : iter8 p i k < 2 ^ 8 := by
  cases k with
  | zero => exact hi
  | succ k => exact next8_lt hp

/-- `b_k` is the index shifted left by `8 + k`, the bits above 15 dropped (R32 (b)). -/
theorem iter16_snd {p i : Nat} (hi : i < 2 ^ 8) (k : Nat) : (iter16 p i k).2 = i * 2 ^ (8 + k) % 2 ^ 16 := by
  induction k with
  | zero =>
    have hseed : i * 2 ^ 8 < 2 ^ 16 := by omega
    exact (Nat.mod_eq_of_lt hseed).symm
  | succ k ih =>
    calc (iter16 p i (k + 1)).2 = 2 * (i * 2 ^ (8 + k) % 2 ^ 16) % 2 ^ 16 := by rw [← ih]; rfl
      _ = i * 2 ^ (8 + (k + 1)) % 2 ^ 16 := by rw [Nat.mul_mod_mod, ← Nat.add_assoc, Nat.pow_succ]; ring_nf

/-- The low byte of `b_k` is zero (R32 (b)). -/
theorem iter16_snd_mod {p i : Nat} (hi : i < 2 ^ 8) (k : Nat) : (iter16 p i k).2 % 2 ^ 8 = 0 := by
  have hdvd : 2 ^ 8 ∣ i * 2 ^ (8 + k) := Dvd.dvd.mul_left (pow_dvd_pow 2 (Nat.le_add_right 8 k)) i
  rw [iter16_snd hi, Nat.mod_mod_of_dvd _ (by decide)]
  exact Nat.mod_eq_zero_of_dvd hdvd

/-- After eight rounds every bit of the index is shifted out (R22). -/
theorem iter16_snd_eight {p i : Nat} (hi : i < 2 ^ 8) : (iter16 p i 8).2 = 0 := by
  rw [iter16_snd hi]
  exact Nat.mul_mod_left i (2 ^ 16)

end Sys2Proof.Machine
end

section
/-! The invariants of `spec/10_state.md` R32, phase by phase: the table is written up to an entry, the polynomial fits
the width, and the registers hold the contract's values after so many rounds. This is the form that a step keeps, and it is
`Invariants` again (`invariants_iff`). -/

namespace Sys2Proof.Machine

/-- The table holds the first `n` entries of `T_W(p)` and no other, each with its width. -/
structure TableUpTo (w : Width) (p : Nat) (m : Memory) (n : Nat) : Prop where
  wf : Memory.wf m
  written : ∀ j, j < 256 → j < n → ∃ e, Memory.read m j = some e ∧ e.toNat = tableEntry w p j
  unwritten : ∀ j, j < 256 → n ≤ j → Memory.read m j = none
  width : ∀ j e, Memory.read m j = some e → e.width = w

/-- The registers hold what the contract's procedure for the current entry holds after `k` rounds (R102, R112). -/
def HoldsRound (s : State) (k : Nat) : Prop :=
  match s.wsel with
  | .w8 => s.r.toNat = iter8 s.poly.toNat s.i.toNat k
  | .w16 => (s.r.toNat, s.b.toNat) = iter16 s.poly.toNat s.i.toNat k

/-- What a run has come to, by phase. -/
structure RunInvariant (s : State) : Prop where
  table : TableUpTo s.wsel s.poly.toNat s.table (writtenBelow s)
  poly_lt : s.phase ≠ .idle → s.poly.toNat < 2 ^ s.wsel.bits
  noRound : s.phase = .seed ∨ s.phase = .store ∨ s.phase = .done → s.k = 0
  midEntry : s.phase = .div → HoldsRound s s.k.toNat
  entryDone : s.phase = .store ∨ s.phase = .done → HoldsRound s 8
  lastEntry : s.phase = .done → s.i = 255

theorem holdsRound_w8 {s : State} {k : Nat} (hw : s.wsel = .w8) :
    HoldsRound s k ↔ s.r.toNat = iter8 s.poly.toNat s.i.toNat k := by
  simp only [HoldsRound, hw]

theorem holdsRound_w16 {s : State} {k : Nat} (hw : s.wsel = .w16) :
    HoldsRound s k ↔ (s.r.toNat, s.b.toNat) = iter16 s.poly.toNat s.i.toNat k := by
  simp only [HoldsRound, hw]

/-- After eight rounds `R` is the entry and, for width 16, `B` is zero. -/
theorem holdsRound_eight (s : State) :
    HoldsRound s 8 ↔ s.r.toNat = tableEntry s.wsel s.poly.toNat s.i.toNat ∧ (s.wsel = .w16 → s.b = 0) := by
  cases hw : s.wsel with
  | w8 => simp [holdsRound_w8 hw, tableEntry, T8entry]
  | w16 =>
    rw [holdsRound_w16 hw, Prod.ext_iff, iter16_snd_eight s.i.isLt]
    simp [tableEntry, T16entry, ← BitVec.toNat_inj]

/-- The working register stays within the width of the run (R32 (a)). -/
theorem HoldsRound.r_lt {s : State} {k : Nat} (h : HoldsRound s k) (hpoly : s.poly.toNat < 2 ^ s.wsel.bits) :
    s.r.toNat < 2 ^ s.wsel.bits := by
  cases hw : s.wsel with
  | w8 =>
    rw [hw] at hpoly
    rw [(holdsRound_w8 hw).mp h]
    exact iter8_lt hpoly s.i.isLt k
  | w16 => exact s.r.isLt

theorem Entry.toNat_lt (e : Entry) : e.toNat < 2 ^ e.width.bits := by
  cases e with
  | w8 v => exact v.isLt
  | w16 v => exact v.isLt

/-! ## The two forms -/

theorem Invariants.tableUpTo {s : State} (h : Invariants s) :
    TableUpTo s.wsel s.poly.toNat s.table (writtenBelow s) where
  wf := h.tableWf
  written j hj := (h.entries j hj).1
  unwritten j hj := (h.entries j hj).2
  width j e he := (h.contained j e he).1

theorem Invariants.poly_lt {s : State} (h : Invariants s) (hp : s.phase ≠ .idle) :
    s.poly.toNat < 2 ^ s.wsel.bits := by
  cases hw : s.wsel with
  | w8 => exact h.highPoly hw hp
  | w16 => exact s.poly.isLt

theorem Invariants.holdsRound_div {s : State} (h : Invariants s) (hp : s.phase = .div) : HoldsRound s s.k.toNat := by
  cases hw : s.wsel with
  | w8 => exact (holdsRound_w8 hw).mpr (h.round8 hw hp)
  | w16 => exact (holdsRound_w16 hw).mpr (h.round16 hw hp)

theorem Invariants.holdsRound_eight {s : State} (h : Invariants s) (hp : s.phase = .store ∨ s.phase = .done) :
    HoldsRound s 8 :=
  (Machine.holdsRound_eight s).mpr ⟨h.finished hp, fun hw => h.shadowOut hw hp⟩

theorem Invariants.runInvariant {s : State} (h : Invariants s) : RunInvariant s where
  table := h.tableUpTo
  poly_lt := h.poly_lt
  noRound hp := by
    rcases hp with hp | hp | hp
    · exact h.roundCounter (.inl hp)
    · exact h.roundCounter (.inr hp)
    · exact (h.doneCounters hp).2
  midEntry := h.holdsRound_div
  entryDone := h.holdsRound_eight
  lastEntry hp := (h.doneCounters hp).1

/-- `R` of a width-8 run stays below 2^8 (R32 (a)). -/
theorem RunInvariant.r_lt {s : State} (h : RunInvariant s) (hp : s.phase = .div ∨ s.phase = .store) :
    s.r.toNat < 2 ^ s.wsel.bits := by
  rcases hp with hp | hp
  · exact (h.midEntry hp).r_lt (h.poly_lt (by simp [hp]))
  · exact (h.entryDone (.inl hp)).r_lt (h.poly_lt (by simp [hp]))

theorem RunInvariant.round16 {s : State} (h : RunInvariant s) (hw : s.wsel = .w16) (hp : s.phase = .div) :
    (s.r.toNat, s.b.toNat) = iter16 s.poly.toNat s.i.toNat s.k.toNat :=
  (holdsRound_w16 hw).mp (h.midEntry hp)

theorem RunInvariant.invariants {s : State} (h : RunInvariant s) : Invariants s where
  tableWf := h.table.wf
  highR hw hp := by simpa [hw, Width.bits] using h.r_lt hp
  highPoly hw hp := by simpa [hw, Width.bits] using h.poly_lt hp
  shadow hw hp := by
    have hb : s.b.toNat = (iter16 s.poly.toNat s.i.toNat s.k.toNat).2 := (Prod.ext_iff.mp (h.round16 hw hp)).2
    rw [hb]
    exact ⟨iter16_snd s.i.isLt _, iter16_snd_mod s.i.isLt _⟩
  entries j hj := ⟨h.table.written j hj, h.table.unwritten j hj⟩
  doneCounters hp := ⟨h.lastEntry hp, h.noRound (.inr (.inr hp))⟩
  roundCounter hp := h.noRound (hp.imp id .inl)
  contained j e he := by
    have hwidth := h.table.width j e he
    exact ⟨hwidth, hwidth ▸ e.toNat_lt⟩
  round8 hw hp := (holdsRound_w8 hw).mp (h.midEntry hp)
  round16 := h.round16
  finished hp := ((holdsRound_eight s).mp (h.entryDone hp)).1
  shadowOut hw hp := ((holdsRound_eight s).mp (h.entryDone hp)).2 hw

theorem invariants_iff {s : State} : Invariants s ↔ RunInvariant s :=
  ⟨Invariants.runInvariant, RunInvariant.invariants⟩

end Sys2Proof.Machine
end

section
/-! Every move keeps the invariants (`spec/10_state.md` R32): first what a write does to the table and a micro-operation
to the round, then one lemma for each shared operation that ends a move. -/

namespace Sys2Proof.Machine

theorem TableUpTo.empty (w : Width) (p : Nat) : TableUpTo w p Memory.unwritten 0 where
  wf := Memory.wf_unwritten
  written _ _ h := absurd h (Nat.not_lt_zero _)
  unwritten j _ _ := Memory.read_unwritten j
  width j e he := by simp at he

/-- STORE writes the next entry (R120). -/
theorem TableUpTo.write {w : Width} {p n : Nat} {m : Memory} {e : Entry} (h : TableUpTo w p m n) (hn : n < 256)
    (hwidth : e.width = w) (hvalue : e.toNat = tableEntry w p n) : TableUpTo w p (Memory.write m n e) (n + 1) where
  wf := Memory.wf_write m n e h.wf hn
  written j hj hlt := by
    rcases Nat.lt_succ_iff_lt_or_eq.mp hlt with hlt | rfl
    · rw [Memory.read_write_other m n j e hlt.ne]
      exact h.written j hj hlt
    · exact ⟨e, Memory.read_write_same m j e, hvalue⟩
  unwritten j hj hle := by
    rw [Memory.read_write_other m n j e (Nat.ne_of_gt hle)]
    exact h.unwritten j hj (Nat.le_of_succ_le hle)
  width j f hf := by
    by_cases hj : j = n
    · subst hj
      rw [Memory.read_write_same, Option.some.injEq] at hf
      exact hf ▸ hwidth
    · rw [Memory.read_write_other m n j e hj] at hf
      exact h.width j f hf

/-! ## The rounds -/

/-- SEED8 loads `r_0` (R100). -/
theorem holdsRound_seed8 {s : State} (hw : s.wsel = .w8) : HoldsRound { s with r := seedLow s.i } 0 := by
  refine (holdsRound_w8 ?_).mpr ?_
  · exact hw
  · exact toNat_seedLow s.i

/-- SEED16 loads `r_0` and `b_0` (R110). -/
theorem holdsRound_seed16 {s : State} (hw : s.wsel = .w16) : HoldsRound { s with r := 0, b := seedHigh s.i } 0 := by
  refine (holdsRound_w16 ?_).mpr ?_
  · exact hw
  · exact congrArg (Prod.mk 0) (toNat_seedHigh s.i)

/-- DIV8 is a round of R81 (R101). -/
theorem HoldsRound.div8 {s : State} {k : Nat} (h : HoldsRound s k) (hw : s.wsel = .w8)
    (hpoly : s.poly.toNat < 2 ^ s.wsel.bits) :
    HoldsRound { s with r := zext16 (round8 (low8 s.poly) (low8 s.r)) } (k + 1) := by
  have hr := h.r_lt hpoly
  rw [hw, Width.bits] at hr hpoly
  refine (holdsRound_w8 ?_).mpr ?_
  · exact hw
  · calc (zext16 (round8 (low8 s.poly) (low8 s.r))).toNat
        = next8 (s.poly.toNat % 2 ^ 8) (s.r.toNat % 2 ^ 8) := by simp [toNat_round8]
      _ = next8 s.poly.toNat s.r.toNat := by rw [Nat.mod_eq_of_lt hpoly, Nat.mod_eq_of_lt hr]
      _ = iter8 s.poly.toNat s.i.toNat (k + 1) := by rw [(holdsRound_w8 hw).mp h]; rfl

/-- DIV16 is a round of R82 (R111). -/
theorem HoldsRound.div16 {s : State} {k : Nat} (h : HoldsRound s k) (hw : s.wsel = .w16) :
    HoldsRound { s with r := round16 s.poly s.r s.b, b := shl s.b } (k + 1) := by
  refine (holdsRound_w16 ?_).mpr ?_
  · exact hw
  · calc ((round16 s.poly s.r s.b).toNat, (shl s.b).toNat)
        = next16 s.poly.toNat (s.r.toNat, s.b.toNat) := toNat_round16 s.poly s.r s.b
      _ = iter16 s.poly.toNat s.i.toNat (k + 1) := by rw [(holdsRound_w16 hw).mp h]; rfl

/-! ## The shared operations -/

theorem RunInvariant.dropTurn {s : State} (h : RunInvariant s) : RunInvariant (dropTurn s) :=
  ⟨h.table, h.poly_lt, h.noRound, h.midEntry, h.entryDone, h.lastEntry⟩

theorem RunInvariant.returnToHost {s : State} (h : RunInvariant s) (v : Reply) : RunInvariant (returnToHost v s) :=
  ⟨h.table, h.poly_lt, h.noRound, h.midEntry, h.entryDone, h.lastEntry⟩

/-- In IDLE with no entry written there is nothing to keep. -/
theorem runInvariant_of_idle {s : State} (hp : s.phase = .idle) (htable : s.table = Memory.unwritten) :
    RunInvariant s where
  table := by
    rw [htable, show writtenBelow s = 0 by simp [writtenBelow, hp]]
    exact .empty _ _
  poly_lt h := absurd hp h
  noRound h := by simp [hp] at h
  midEntry h := by simp [hp] at h
  entryDone h := by simp [hp] at h
  lastEntry h := by simp [hp] at h

theorem runInvariant_acceptStart (w : Width) (p : Nat) (s : State) : RunInvariant (acceptStart w p s) where
  table := .empty _ _
  poly_lt _ := by
    rw [acceptStart_poly, acceptStart_wsel, toNat_polyOperand]
    exact Nat.mod_lt p (Nat.two_pow_pos _)
  noRound _ := rfl
  midEntry h := by cases h
  entryDone h := by rcases h with h | h <;> cases h
  lastEntry h := by cases h

theorem runInvariant_enterDiv {s : State} (htable : TableUpTo s.wsel s.poly.toNat s.table s.i.toNat)
    (hpoly : s.poly.toNat < 2 ^ s.wsel.bits) (hround : HoldsRound s 0) : RunInvariant (enterDiv s) where
  table := htable
  poly_lt _ := hpoly
  noRound h := by simp at h
  midEntry _ := hround
  entryDone h := by simp at h
  lastEntry h := by simp at h

/-- The eighth round ends the entry, the others count. -/
theorem runInvariant_countRound {s : State} (hp : s.phase = .div)
    (htable : TableUpTo s.wsel s.poly.toNat s.table s.i.toNat) (hpoly : s.poly.toNat < 2 ^ s.wsel.bits)
    (hround : HoldsRound s (s.k.toNat + 1)) : RunInvariant (countRound s) := by
  by_cases hk : s.k = 7
  · rw [countRound_eighth hk]
    rw [hk] at hround
    exact {
      table := htable
      poly_lt := fun _ => hpoly
      noRound := fun _ => rfl
      midEntry := fun h => by simp at h
      entryDone := fun _ => hround
      lastEntry := fun h => by simp at h }
  · rw [countRound_more hk]
    rw [← toNat_add_one_of_ne_seven hk] at hround
    exact {
      table := by simpa [writtenBelow, hp] using htable
      poly_lt := fun _ => hpoly
      noRound := fun h => by simp [hp] at h
      midEntry := fun _ => hround
      entryDone := fun h => by simp [hp] at h
      lastEntry := fun h => by simp [hp] at h }

/-- The entry just written was the last one, or the next one is seeded. -/
theorem runInvariant_nextEntry {s : State} (htable : TableUpTo s.wsel s.poly.toNat s.table (s.i.toNat + 1))
    (hpoly : s.poly.toNat < 2 ^ s.wsel.bits) (hk : s.k = 0) (hround : HoldsRound s 8) :
    RunInvariant (nextEntry s) := by
  by_cases hi : s.i = 255
  · rw [nextEntry_last hi]
    exact {
      table := by simpa [hi, writtenBelow] using htable
      poly_lt := fun _ => hpoly
      noRound := fun _ => hk
      midEntry := fun h => by simp at h
      entryDone := fun _ => hround
      lastEntry := fun _ => hi }
  · rw [nextEntry_more hi]
    rw [← toNat_add_one_of_ne_255 hi] at htable
    exact {
      table := htable
      poly_lt := fun _ => hpoly
      noRound := fun _ => hk
      midEntry := fun h => by simp at h
      entryDone := fun h => by simp at h
      lastEntry := fun h => by simp at h }

/-- While BUSY the entries below the current one are written, and the polynomial is within the width. -/
theorem RunInvariant.busy {s : State} (h : RunInvariant s) (hb : s.phase.busy = true) :
    TableUpTo s.wsel s.poly.toNat s.table s.i.toNat ∧ s.poly.toNat < 2 ^ s.wsel.bits := by
  have hbelow : writtenBelow s = s.i.toNat := by
    unfold writtenBelow
    cases hp : s.phase <;> simp [hp, Phase.busy] at hb ⊢
  exact ⟨hbelow ▸ h.table, h.poly_lt fun hp => by simp [hp, Phase.busy] at hb⟩

/-- STORE writes the current entry: `R` holds it (R120). -/
theorem RunInvariant.tableUpTo_store {s : State} (h : RunInvariant s) (hp : s.phase = .store) :
    TableUpTo s.wsel s.poly.toNat (Memory.write s.table s.i.toNat (entryOf s.wsel s.r)) (s.i.toNat + 1) := by
  have hvalue : (entryOf s.wsel s.r).toNat = tableEntry s.wsel s.poly.toNat s.i.toNat := by
    rw [toNat_entryOf, Nat.mod_eq_of_lt (h.r_lt (.inr hp))]
    exact ((holdsRound_eight s).mp (h.entryDone (.inl hp))).1
  obtain ⟨htable, -⟩ := h.busy (by simp [hp, Phase.busy])
  exact htable.write s.i.isLt (width_entryOf _ _) hvalue

/-! ## Steps -/

/-- Every move keeps them. -/
theorem Move.runInvariant {s t : State} (hmove : Move s t) (h : RunInvariant s) : RunInvariant t := by
  have hu := h.dropTurn
  cases hmove with
  | wait => exact hu
  | seed8 _ hp hw =>
    obtain ⟨htable, hpoly⟩ := hu.busy (by simp [hp, Phase.busy])
    exact runInvariant_enterDiv htable hpoly (holdsRound_seed8 (s := dropTurn s) hw)
  | seed16 _ hp hw =>
    obtain ⟨htable, hpoly⟩ := hu.busy (by simp [hp, Phase.busy])
    exact runInvariant_enterDiv htable hpoly (holdsRound_seed16 (s := dropTurn s) hw)
  | div8 _ hp hw =>
    obtain ⟨htable, hpoly⟩ := hu.busy (by simp [hp, Phase.busy])
    exact runInvariant_countRound hp htable hpoly ((hu.midEntry hp).div8 hw hpoly)
  | div16 _ hp hw =>
    obtain ⟨htable, hpoly⟩ := hu.busy (by simp [hp, Phase.busy])
    exact runInvariant_countRound hp htable hpoly ((hu.midEntry hp).div16 hw)
  | store _ hp =>
    obtain ⟨-, hpoly⟩ := hu.busy (by simp [hp, Phase.busy])
    exact runInvariant_nextEntry (hu.tableUpTo_store hp) hpoly (hu.noRound (.inr (.inl hp))) (hu.entryDone (.inl hp))
  | poll => exact hu.returnToHost _
  | rdtab => exact hu.returnToHost _
  | start cmd w => exact runInvariant_acceptStart w _ _
  | reset => exact runInvariant_of_idle rfl rfl

/-- Settles O26: in the phase-by-phase form every move keeps them. -/
theorem stepKeepsTheInvariants : Obligations.StepKeepsTheInvariants := by
  intro s t hs hstep
  exact ((step_move hstep).runInvariant hs.runInvariant).invariants

end Sys2Proof.Machine
end

section
/-! Power-on, the reachable states, the reset state and POLL (`spec/10_state.md` R30, R32, R36). -/

namespace Sys2Proof.Machine

theorem invariants_of_powerOn {s : State} (h : PowerOn s) : Invariants s := by
  obtain ⟨hp, htable, -⟩ := h
  exact (runInvariant_of_idle hp htable).invariants

theorem powerOn_reset : PowerOn State.reset := ⟨rfl, rfl, rfl⟩

/-- Settles O25: at power-on the phase is IDLE and no entry is written, so there is nothing to keep. -/
theorem powerOnHasTheInvariants : Obligations.PowerOnHasTheInvariants :=
  ⟨fun _ => invariants_of_powerOn, invariants_of_powerOn powerOn_reset⟩

/-- What every step keeps holds at the end of a run if it holds at the start. -/
theorem run_keeps {P : State → Prop} (hkeep : ∀ s t, P s → step s = .next t → P t) {n : Nat} {s t : State}
    (hs : P s) (hrun : run n s = .next t) : P t := by
  induction n generalizing s with
  | zero =>
    cases hrun
    exact hs
  | succ n ih =>
    cases hstep : step s with
    | next u => exact ih (hkeep s u hs hstep) (run_succ_next hstep ▸ hrun)
    | fault f => simp [run, hstep] at hrun
    | refused q => simp [run, hstep] at hrun

/-- Settles O27: they hold at power-on and every step keeps them. -/
theorem reachableStatesHaveTheInvariants : Obligations.ReachableStatesHaveTheInvariants := by
  rintro s ⟨s₀, n, hs₀, hrun⟩
  exact run_keeps stepKeepsTheInvariants (invariants_of_powerOn hs₀) hrun

/-- Settles O13: the reset state is IDLE with the empty table, by definition. -/
theorem resetStateAsSpecified : Obligations.ResetStateAsSpecified :=
  ⟨rfl, rfl, Memory.read_unwritten, powerOn_reset, Memory.wf_unwritten, rfl⟩

/-- Settles O14: POLL returns `STATUS`, which is BUSY in the three phases of a run. -/
theorem pollReturnsStatus : Obligations.PollReturnsStatus := by
  intro s
  refine ⟨s.phase.status, rfl, fun hp => ?_, fun hp => ?_, fun hp => ?_⟩
  · rw [hp]
    exact ⟨rfl, rfl⟩
  · rcases hp with hp | hp | hp <;> rw [hp] <;> exact ⟨rfl, rfl⟩
  · rw [hp]
    exact ⟨rfl, rfl⟩

end Sys2Proof.Machine
end

section
/-! The table memory over one step (`spec/20_memory.md` R40, R44, R46, R52): what a move can do to it is said once, and
the facts about it are read off. -/

namespace Sys2Proof.Machine

/-- A move leaves the table, empties it, or, in STORE, writes entry `I`. Only RESET empties it while BUSY. -/
theorem Move.table_cases {s t : State} (hmove : Move s t) :
    t.table = s.table ∨
      (t.table = Memory.unwritten ∧ (s.phase.busy = false ∨ ∃ x ∈ s.turns.head?, x.isReset = true)) ∨
      (s.phase = .store ∧ t.table = Memory.write s.table s.i.toNat (entryOf s.wsel s.r)) := by
  cases hmove with
  | store _ hp => exact .inr (.inr ⟨hp, nextEntry_table _⟩)
  | start _ _ _ hb => exact .inr (.inl ⟨rfl, .inl hb⟩)
  | reset x hturn hx => exact .inr (.inl ⟨rfl, .inr ⟨x, hturn, hx⟩⟩)
  | wait | seed8 | seed16 | div8 | div16 | poll | rdtab => exact .inl (by simp)

/-- Settles O28: the same, the empty and the written table are each canonical; the index of a write has 8 bits. -/
theorem stepKeepsTheTableCanonical : Obligations.StepKeepsTheTableCanonical := by
  intro s t hwf hstep
  rcases (step_move hstep).table_cases with hsame | ⟨hempty, -⟩ | ⟨-, hwrite⟩
  · rwa [hsame]
  · rw [hempty]
    exact Memory.wf_unwritten
  · rw [hwrite]
    exact Memory.wf_write _ _ _ hwf s.i.isLt

/-- Settles O33: without a RESET the only change of the table while BUSY is the write of STORE, and a write changes no
entry but its own. -/
theorem onlyStoreWritesTheTable : Obligations.OnlyStoreWritesTheTable := by
  intro s t j hstep hbusy hnoReset hread
  rcases (step_move hstep).table_cases with hsame | ⟨-, hnotBusy | ⟨x, hturn, hx⟩⟩ | ⟨hp, hwrite⟩
  · exact absurd (congrArg (Memory.read · j) hsame) hread
  · exact absurd hbusy (by simp [hnotBusy])
  · exact absurd hx (by simp [hnoReset x hturn])
  · refine ⟨hp, ?_⟩
    by_contra hj
    exact hread (by rw [hwrite, Memory.read_write_other _ _ _ _ hj])

/-- A width field that names a width holds 8 or 16 (R63). -/
theorem widthField_of_toNat_eq_bits {cmd : CmdWord} {w : Width} (h : (widthField cmd).toNat = w.bits) :
    widthField cmd = 8 ∨ widthField cmd = 16 := by
  cases w with
  | w8 => exact .inl (BitVec.eq_of_toNat_eq h)
  | w16 => exact .inr (BitVec.eq_of_toNat_eq h)

/-- Settles O35: in DONE the sequencer waits, and POLL and RDTAB write only the replies. -/
theorem tableConstantWhileDone : Obligations.TableConstantWhileDone := by
  intro s t hdone hstep
  cases step_move hstep with
  | wait | poll | rdtab => exact .inl rfl
  | start cmd w hturn _ hw =>
    obtain ⟨ts, hts⟩ := List.head?_eq_some_iff.mp hturn
    exact .inr (.inr ⟨cmd, ts, hts, widthField_of_toNat_eq_bits hw⟩)
  | reset x hturn hx => exact .inr (.inl ⟨x, hturn, hx⟩)
  | seed8 _ hp | seed16 _ hp | div8 _ hp | div16 _ hp | store _ hp => exact absurd (hdone.symm.trans hp) (by decide)

end Sys2Proof.Machine
end

section
/-! The decoder read case by case (`spec/30_encoding.md` R61 to R70): what each width field selects, which instruction
each code selects, and from these the agreement with the encoder and with the operation map. -/

namespace Sys2Proof

theorem decodeCmd_of_width8 {w : CmdWord} (h : widthField w = 0x08#8) :
    decodeCmd w = .instr (.gen8 (polyField w).toNat) :=
  if_pos h

theorem decodeCmd_of_width16 {w : CmdWord} (h : widthField w = 0x10#8) :
    decodeCmd w = .instr (.gen16 (polyField w).toNat) := by
  simp [decodeCmd, h]

theorem decodeCmd_of_illegalWidth {w : CmdWord} (h8 : widthField w ≠ 0x08#8) (h16 : widthField w ≠ 0x10#8) :
    decodeCmd w = .reject (.illegalWidth (widthField w)) := by
  simp only [decodeCmd, if_neg h8, if_neg h16]

/-- The operation map read from code to instruction (R68): a row for each code, or for each field, that selects one. -/
inductive Selects : Code → Instr → Prop
  | reset : Selects (.host .reset) .reset
  | poll : Selects (.host .poll) .poll
  | gen8 (w : CmdWord) (hw : widthField w = 0x08#8) : Selects (.host (.start w)) (.gen8 (polyField w).toNat)
  | gen16 (w : CmdWord) (hw : widthField w = 0x10#8) : Selects (.host (.start w)) (.gen16 (polyField w).toNat)
  | rdtab (idx : Byte) : Selects (.host (.rdtab idx)) (.rdtab idx)
  | seed8 : Selects (.useq 0b0001#4) .seed8
  | div8 : Selects (.useq 0b0010#4) .div8
  | seed16 : Selects (.useq 0b1001#4) .seed16
  | div16 : Selects (.useq 0b1010#4) .div16
  | store : Selects (.useq 0b0011#4) .store
  | storeW16 : Selects (.useq 0b1011#4) .store

/-- A code that selects an instruction decodes to it. -/
theorem Selects.decode_eq {c : Code} {i : Instr} (h : Selects c i) : decode c = .instr i := by
  cases h with
  | gen8 w hw => exact decodeCmd_of_width8 hw
  | gen16 w hw => exact decodeCmd_of_width16 hw
  | reset | poll | rdtab | seed8 | div8 | seed16 | div16 | store | storeW16 => rfl

/-- The code that the encoder gives selects the instruction, if the polynomial fits its field (R62). -/
theorem selects_encode {i : Instr} (h : i.wf = true) : Selects (encode i) i := by
  cases i with
  | gen8 p =>
    have hsel := Selects.gen8 (cmdWord 0x08#8 (BitVec.ofNat 32 p)) (widthField_cmdWord _ _)
    rwa [polyField_cmdWord, toNat_ofNat_polyIn h] at hsel
  | gen16 p =>
    have hsel := Selects.gen16 (cmdWord 0x10#8 (BitVec.ofNat 32 p)) (widthField_cmdWord _ _)
    rwa [polyField_cmdWord, toNat_ofNat_polyIn h] at hsel
  | reset => exact .reset
  | poll => exact .poll
  | rdtab idx => exact .rdtab idx
  | seed8 => exact .seed8
  | div8 => exact .div8
  | seed16 => exact .seed16
  | div16 => exact .div16
  | store => exact .store

/-- Settles O3: the code of a well-formed instruction selects it, and the decoder follows the selection. -/
theorem decodeOfEncode : Obligations.DecodeOfEncode :=
  fun _ hwf => (selects_encode hwf).decode_eq

/-- A command word that decodes to an instruction has one of the two widths (R63). -/
theorem selects_of_decodeCmd {w : CmdWord} {i : Instr} (h : decodeCmd w = .instr i) : Selects (.host (.start w)) i := by
  by_cases h8 : widthField w = 0x08#8
  · cases (decodeCmd_of_width8 h8).symm.trans h
    exact .gen8 w h8
  · by_cases h16 : widthField w = 0x10#8
    · cases (decodeCmd_of_width16 h16).symm.trans h
      exact .gen16 w h16
    · cases (decodeCmd_of_illegalWidth h8 h16).symm.trans h

theorem eq_of_decodeUseq_isSome (c : UseqCode) : (decodeUseq c).instr?.isSome = true →
    c = 0b0001#4 ∨ c = 0b0010#4 ∨ c = 0b1001#4 ∨ c = 0b1010#4 ∨ c = 0b0011#4 ∨ c = 0b1011#4 := by
  revert c
  decide

/-- A state code that decodes to a micro-operation is one of six (R67). -/
theorem selects_of_decodeUseq {c : UseqCode} {i : Instr} (h : decodeUseq c = .instr i) : Selects (.useq c) i := by
  rcases eq_of_decodeUseq_isSome c (by rw [h]; rfl) with rfl | rfl | rfl | rfl | rfl | rfl <;> cases h
  · exact .seed8
  · exact .div8
  · exact .seed16
  · exact .div16
  · exact .store
  · exact .storeW16

/-- The decoder gives an instruction exactly where the operation map does. -/
theorem decode_eq_instr_iff {c : Code} {i : Instr} : decode c = .instr i ↔ Selects c i := by
  refine ⟨fun h => ?_, Selects.decode_eq⟩
  match c, h with
  | .host .reset, rfl => exact .reset
  | .host .poll, rfl => exact .poll
  | .host (.rdtab idx), rfl => exact .rdtab idx
  | .host (.start w), h => exact selects_of_decodeCmd h
  | .useq c, h => exact selects_of_decodeUseq h

/-- A polynomial read from its field fits it (R62). -/
theorem polyInFits_toNat (p : BitVec 32) : polyInFits p.toNat = true :=
  decide_eq_true p.isLt

/-- A command word is put together again from its width and the number in its polynomial field (R62). -/
theorem cmdWord_ofNat_polyField {w : CmdWord} {a : Byte} (h : widthField w = a) :
    cmdWord a (BitVec.ofNat 32 (polyField w).toNat) = w := by
  rw [BitVec.ofNat_toNat, BitVec.setWidth_eq, ← h, cmdWord_fields]

/-- Settles O4: each selection of the map read backwards; only the second STORE code is not the encoder's. -/
theorem encodeOfDecode : Obligations.EncodeOfDecode := by
  intro c i h
  cases decode_eq_instr_iff.mp h with
  | gen8 w hw => exact ⟨polyInFits_toNat _, .inl (congrArg (Code.host ∘ Request.start) (cmdWord_ofNat_polyField hw))⟩
  | gen16 w hw => exact ⟨polyInFits_toNat _, .inl (congrArg (Code.host ∘ Request.start) (cmdWord_ofNat_polyField hw))⟩
  | storeW16 => exact ⟨rfl, .inr ⟨rfl, rfl⟩⟩
  | reset | poll | rdtab | seed8 | div8 | seed16 | div16 | store => exact ⟨rfl, .inl rfl⟩

/-- The width field holds the number that the word's bits 39:32 are. -/
theorem widthField_eq_iff (w : CmdWord) (a : Byte) : widthField w = a ↔ w.toNat / 2 ^ 32 = a.toNat := by
  rw [← BitVec.toNat_inj, toNat_widthField]

theorem widthField_eq_ofNat (w : CmdWord) : widthField w = BitVec.ofNat 8 (w.toNat / 2 ^ 32) := by
  rw [← toNat_widthField, BitVec.ofNat_toNat, BitVec.setWidth_eq]

/-- Settles O2: the fields are the quotient and the remainder by 2^32, and the decoder goes by the width field. -/
theorem commandWordFieldsDecode : Obligations.CommandWordFieldsDecode := by
  intro w
  rw [← toNat_polyField, ← widthField_eq_ofNat]
  refine ⟨fun h => ?_, fun h => ?_, fun h8 h16 => ?_⟩
  · exact decodeCmd_of_width8 ((widthField_eq_iff w 0x08#8).mpr h)
  · exact decodeCmd_of_width16 ((widthField_eq_iff w 0x10#8).mpr h)
  · exact decodeCmd_of_illegalWidth (mt (widthField_eq_iff w 0x08#8).mp h8) (mt (widthField_eq_iff w 0x10#8).mp h16)

/-- Settles O1: each word evaluated. -/
theorem writtenOutWordsDecode : Obligations.WrittenOutWordsDecode := by
  unfold Obligations.WrittenOutWordsDecode
  decide

/-- The mnemonic a code decodes to, if any. -/
def Code.mnemonic? (c : Code) : Option String := (decode c).instr?.map Instr.mnemonic

theorem Code.mnemonic?_eq_some_iff {c : Code} {m : String} :
    c.mnemonic? = some m ↔ ∃ i, decode c = .instr i ∧ i.mnemonic = m := by
  unfold Code.mnemonic?
  cases decode c <;> simp [Decoded.instr?]

/-- A row of the map that looks at the top byte of a command word selects the words with that width field. -/
theorem cmd_mask_eq_iff (w : CmdWord) (a : Byte) :
    w.toNat &&& 0xFF00000000 = a.toNat * 2 ^ 32 ↔ widthField w = a := by
  rw [← cmdWord_fields w, Laws.OneRow.cmd_mask, widthField_cmdWord, ← BitVec.toNat_inj]
  omega

/-- The mnemonic of a command word goes by its width field (R63). -/
theorem Code.mnemonic?_start (w : CmdWord) : (Code.host (.start w)).mnemonic? =
    if widthField w = 0x08#8 then some "GEN8" else if widthField w = 0x10#8 then some "GEN16" else none := by
  change (decodeCmd w).instr?.map Instr.mnemonic = _
  unfold decodeCmd
  split_ifs <;> rfl

/-- A command word lies in the row of its width, and in no other. -/
theorem selects_start_iff (w : CmdWord) : ∀ row ∈ opRows,
    row.selects (.host (.start w)) = true ↔ (Code.host (.start w)).mnemonic? = some row.mnemonic := by
  have hgen8 : w.toNat &&& 0xFF00000000 = 0x0800000000 ↔ widthField w = 0x08#8 := cmd_mask_eq_iff w 0x08#8
  have hgen16 : w.toNat &&& 0xFF00000000 = 0x1000000000 ↔ widthField w = 0x10#8 := cmd_mask_eq_iff w 0x10#8
  rw [Code.mnemonic?_start]
  split_ifs <;> simp [opRows, OpRow.selects, Code.bits, *]

/-- Every `RD` word lies in the row of RDTAB, and in no other. -/
theorem selects_rdtab_iff (idx : Byte) : ∀ row ∈ opRows,
    row.selects (.host (.rdtab idx)) = true ↔ (Code.host (.rdtab idx)).mnemonic? = some row.mnemonic := by
  have hmnemonic : (Code.host (.rdtab idx)).mnemonic? = some "RDTAB" := rfl
  simp [opRows, OpRow.selects, Code.bits, hmnemonic]

theorem selects_useq_iff : ∀ c : UseqCode, ∀ row ∈ opRows,
    row.selects (.useq c) = true ↔ (Code.useq c).mnemonic? = some row.mnemonic := by
  decide

/-- Settles O5: format by format, the rows that hold a code are those of the mnemonic it decodes to. -/
theorem decoderFollowsOperationMap : Obligations.DecoderFollowsOperationMap := by
  intro c row hrow
  rw [← Code.mnemonic?_eq_some_iff]
  match c with
  | .host .reset => revert row; decide
  | .host .poll => revert row; decide
  | .host (.start w) => exact selects_start_iff w row hrow
  | .host (.rdtab idx) => exact selects_rdtab_iff idx row hrow
  | .useq u => exact selects_useq_iff u row hrow

end Sys2Proof
end

section
/-! The codes that no state has, and the polynomial bits that no START keeps (`spec/30_encoding.md` R64, R70). -/

namespace Sys2Proof.Machine

/-- Settles O6: each of the two widths and five phases has a code of its own, evaluated. -/
theorem reservedCodesNeverProduced : Obligations.ReservedCodesNeverProduced := by
  intro w p
  cases w <;> cases p <;> decide

/-- START latches nothing of a polynomial but its low W bits (R64). -/
theorem acceptStart_congr {w : Width} {p q : Nat} (h : truncW w p = truncW w q) (s : State) :
    acceptStart w p s = acceptStart w q s := by
  have hpoly : polyOperand w p = polyOperand w q := BitVec.eq_of_toNat_eq (by simpa using h)
  simp only [acceptStart, hpoly]

theorem startRun_congr {w : Width} {p q : Nat} (h : truncW w p = truncW w q) (s : State) :
    startRun w p s = startRun w q s := by
  simp only [startRun, acceptStart_congr h]

/-- Settles O17: GEN8 and GEN16 are a START of their width, which reads the polynomial truncated. -/
theorem highPolynomialBitsIgnored : Obligations.HighPolynomialBitsIgnored :=
  fun _ _ s => ⟨fun h => startRun_congr (w := .w8) h s, fun h => startRun_congr (w := .w16) h s⟩

end Sys2Proof.Machine
end

section
/-! How far micro-steps bring a run (`spec/43_store_and_sequencing.md` R124): each one a step nearer to DONE. -/

namespace Sys2Proof.Machine

theorem remaining_idle {s : State} (hp : s.phase = .idle) : remaining s = 0 := by
  simp only [remaining, hp]

theorem remaining_seed {s : State} (hp : s.phase = .seed) : remaining s = 10 * (255 - s.i.toNat) + 10 := by
  simp only [remaining, hp]

theorem remaining_div {s : State} (hp : s.phase = .div) : remaining s = 10 * (255 - s.i.toNat) + 9 - s.k.toNat := by
  simp only [remaining, hp]

theorem remaining_store {s : State} (hp : s.phase = .store) : remaining s = 10 * (255 - s.i.toNat) + 1 := by
  simp only [remaining, hp]

theorem remaining_done {s : State} (hp : s.phase = .done) : remaining s = 0 := by
  simp only [remaining, hp]

/-- A run that has begun needs no more micro-steps exactly when it is in DONE. -/
theorem remaining_eq_zero_iff {s : State} (hp : s.phase ≠ .idle) : remaining s = 0 ↔ s.phase = .done := by
  have hk := s.k.isLt
  cases h : s.phase with
  | idle => exact absurd h hp
  | seed => simp [remaining_seed h]
  | div => simp [remaining_div h]; omega
  | store => simp [remaining_store h]
  | done => simp [remaining_done h]

theorem remaining_enterDiv (s : State) : remaining (enterDiv s) = 10 * (255 - s.i.toNat) + 9 := rfl

theorem remaining_countRound {s : State} (hp : s.phase = .div) :
    remaining (countRound s) = 10 * (255 - s.i.toNat) + 8 - s.k.toNat := by
  by_cases hk : s.k = 7
  · rw [countRound_eighth hk, remaining_store rfl, hk]
    rfl
  · have hmore : remaining { s with k := s.k + 1 } = 10 * (255 - s.i.toNat) + 9 - (s.k + 1).toNat := remaining_div hp
    rw [countRound_more hk, hmore, toNat_add_one_of_ne_seven hk]
    omega

theorem remaining_nextEntry (s : State) : remaining (nextEntry s) = 10 * (255 - s.i.toNat) := by
  by_cases hi : s.i = 255
  · rw [nextEntry_last hi, remaining_done rfl, hi]
    rfl
  · have hlt := s.i.isLt
    have hne : s.i.toNat ≠ 255 := fun h => hi (BitVec.eq_of_toNat_eq h)
    rw [nextEntry_more hi, remaining_seed rfl, toNat_add_one_of_ne_255 hi]
    omega

/-- What `n` micro-steps do to what the host sees of a run: DONE is `n` steps nearer, IDLE is neither entered nor left,
and nothing is returned. -/
structure Advanced (n : Nat) (s t : State) : Prop where
  remaining : remaining t = remaining s - n
  idle : t.phase = .idle ↔ s.phase = .idle
  replies : t.replies = s.replies

theorem Advanced.refl (s : State) : Advanced 0 s s := ⟨rfl, .rfl, rfl⟩

theorem Advanced.trans {m n : Nat} {s t u : State} (hst : Advanced m s t) (htu : Advanced n t u) :
    Advanced (m + n) s u where
  remaining := by rw [htu.remaining, hst.remaining, Nat.sub_sub]
  idle := htu.idle.trans hst.idle
  replies := htu.replies.trans hst.replies

theorem advanced_wait {s : State} (hp : s.phase = .idle ∨ s.phase = .done) : Advanced 1 s s := by
  refine ⟨?_, .rfl, rfl⟩
  rcases hp with hp | hp
  · rw [remaining_idle hp]
  · rw [remaining_done hp]

theorem advanced_enterDiv {s : State} (hp : s.phase = .seed) (r b : Word16) :
    Advanced 1 s (enterDiv { s with r := r, b := b }) where
  remaining := by
    rw [remaining_seed hp, remaining_enterDiv]
    rfl
  idle := by simp [hp]
  replies := rfl

theorem advanced_countRound {s : State} (hp : s.phase = .div) (r b : Word16) :
    Advanced 1 s (countRound { s with r := r, b := b }) where
  remaining := by
    rw [remaining_div hp, remaining_countRound (s := { s with r := r, b := b }) hp, Nat.sub_right_comm]
    rfl
  idle := by
    rw [countRound_phase, hp]
    split <;> simp
  replies := countRound_replies _

theorem advanced_nextEntry {s : State} (hp : s.phase = .store) (m : Memory) :
    Advanced 1 s (nextEntry { s with table := m }) where
  remaining := by
    rw [remaining_store hp, remaining_nextEntry]
    rfl
  idle := by
    rw [nextEntry_phase, hp]
    split <;> simp
  replies := nextEntry_replies _

/-- Every micro-operation is one of the micro-steps that are still needed; in IDLE and DONE none is. -/
theorem advanced_of_sequencerTurn {s t : State} (h : sequencerTurn s = .next t) : Advanced 1 s t := by
  rcases sequencerTurn_cases s with
    ⟨hp, heq⟩ | ⟨hp, -, heq⟩ | ⟨hp, -, heq⟩ | ⟨hp, -, heq⟩ | ⟨hp, -, heq⟩ | ⟨hp, heq⟩ <;>
    rw [heq] at h <;> cases h
  · exact advanced_wait hp
  · exact advanced_enterDiv hp _ _
  · exact advanced_enterDiv hp _ _
  · exact advanced_countRound hp _ _
  · exact advanced_countRound hp _ _
  · exact advanced_nextEntry hp _

/-- `n` micro-steps go through, whatever is scheduled after them, and leave that. -/
theorem run_microSteps (n : Nat) (s : State) : ∃ t, Advanced n s t ∧
    ∀ rest, run n { s with turns := List.replicate n Turn.seq ++ rest } = .next { t with turns := rest } := by
  induction n generalizing s with
  | zero => exact ⟨s, .refl s, fun _ => rfl⟩
  | succ n ih =>
    obtain ⟨u, hu⟩ := sequencerTurn_next s
    obtain ⟨t, hut, hrun⟩ := ih u
    refine ⟨t, Nat.add_comm 1 n ▸ (advanced_of_sequencerTurn hu).trans hut, fun rest => ?_⟩
    have hstep : step { s with turns := List.replicate (n + 1) Turn.seq ++ rest } =
        .next { u with turns := List.replicate n Turn.seq ++ rest } := by
      rw [step_seq (ts := List.replicate n Turn.seq ++ rest) rfl]
      exact sequencerTurn_withTurns (s := s) _ hu
    rw [run_succ_next hstep, hrun]

end Sys2Proof.Machine
end

section
/-! WAIT (`spec/30_encoding.md` R72, R73): what one POLL of it does, and from that, by induction on the list of
micro-steps before the POLLs, when it is over and what its turns do. -/

namespace Sys2Proof.Machine

/-- The turns of one POLL of a WAIT: the micro-steps before it, and it. -/
def pollAfter (gap : Nat) : List Turn := List.replicate gap Turn.seq ++ [.host .poll]

theorem mem_pollAfter {gap : Nat} {x : Turn} (h : x ∈ pollAfter gap) : x = .seq ∨ x = .host .poll := by
  rcases List.mem_append.mp h with hseq | hpoll
  · exact .inl (List.eq_of_mem_replicate hseq)
  · exact .inr (List.mem_singleton.mp hpoll)

@[simp] theorem length_pollAfter (gap : Nat) : (pollAfter gap).length = gap + 1 := by
  simp [pollAfter]

theorem countP_isPoll_pollAfter (gap : Nat) : (pollAfter gap).countP Turn.isPoll = 1 := by
  simp [pollAfter, List.countP_replicate, Turn.isPoll]

/-- What one POLL of a WAIT does: its micro-steps and the POLL go through, whatever is scheduled after them, and the
POLL returns the status of where the micro-steps end. -/
structure Polled (gap : Nat) (s t : State) : Prop where
  remaining : remaining t = remaining s - gap
  idle : t.phase = .idle ↔ s.phase = .idle
  replies : t.replies = .status t.phase.status :: s.replies
  run : ∀ rest, run (pollAfter gap).length { s with turns := pollAfter gap ++ rest } = .next { t with turns := rest }

theorem status_eq_done_iff (p : Phase) : p.status = .done ↔ p = .done := by
  cases p <;> decide

theorem status_eq_busy {p : Phase} (hidle : p ≠ .idle) (hdone : p ≠ .done) : p.status = .busy := by
  cases p <;> simp_all [Phase.status]

/-- One POLL of a WAIT goes through from every state. -/
theorem exists_polled (gap : Nat) (s : State) : ∃ t, Polled gap s t ∧ t.turns = [] := by
  obtain ⟨u, hsu, hrun⟩ := run_microSteps gap s
  refine ⟨{ returnToHost (.status u.phase.status) u with turns := [] }, ⟨hsu.remaining, hsu.idle, ?_, ?_⟩, rfl⟩
  · simp [hsu.replies]
  · intro rest
    have hpoll : run 1 { u with turns := .host .poll :: rest } =
        .next { returnToHost (.status u.phase.status) u with turns := rest } :=
      run_succ_next ((step_host rfl).trans (hostTurn_poll _))
    rw [length_pollAfter, pollAfter, List.append_assoc, run_add 1 (hrun _)]
    exact hpoll

/-- A WAIT's first POLL: it is the last one if it finds DONE, and else the WAIT goes on from where it leaves off. -/
theorem waitTurns_cons_polled (gap : Nat) (gaps : List Nat) (s : State) : ∃ t, Polled gap s t ∧
    waitTurns (gap :: gaps) s =
      if t.phase = .done then some (pollAfter gap) else (waitTurns gaps t).map (pollAfter gap ++ ·) := by
  obtain ⟨t, hst, hturns⟩ := exists_polled gap s
  have ht : { t with turns := [] } = t := by rw [← hturns]
  have hfirst : run (pollAfter gap).length { s with turns := pollAfter gap } = .next t := by
    simpa only [List.append_nil, ht] using hst.run []
  refine ⟨t, hst, ?_⟩
  rw [waitTurns_cons gaps hfirst]
  simp [hst.replies, status_eq_done_iff, pollAfter]

/-- In IDLE no POLL returns DONE, so WAIT is never over. -/
theorem waitTurns_of_idle (gaps : List Nat) {s : State} (hp : s.phase = .idle) : waitTurns gaps s = none := by
  induction gaps generalizing s with
  | nil => rfl
  | cons gap gaps ih =>
    obtain ⟨t, hst, heq⟩ := waitTurns_cons_polled gap gaps s
    have ht : t.phase = .idle := hst.idle.mpr hp
    rw [heq, if_neg (by simp [ht]), ih ht]
    rfl

/-- In a run, WAIT is over when there is a POLL and the micro-steps before the last are as many as the run needs. -/
theorem isSome_waitTurns_iff (gaps : List Nat) {s : State} (hp : s.phase ≠ .idle) :
    (waitTurns gaps s).isSome = true ↔ gaps ≠ [] ∧ remaining s ≤ gaps.sum := by
  induction gaps generalizing s with
  | nil => simp
  | cons gap gaps ih =>
    obtain ⟨t, hst, heq⟩ := waitTurns_cons_polled gap gaps s
    have ht : t.phase ≠ .idle := mt hst.idle.mp hp
    have hrem := hst.remaining
    have hzero := remaining_eq_zero_iff ht
    rw [heq]
    by_cases hdone : t.phase = .done
    · have hle : remaining s ≤ gap + gaps.sum := by have := hzero.mpr hdone; omega
      simp [hdone, hle]
    · have hpos : remaining t ≠ 0 := mt hzero.mp hdone
      rw [if_neg hdone, Option.isSome_map, ih ht, List.sum_cons]
      cases gaps with
      | nil => simp; omega
      | cons g gs => simp; omega

/-- The turns of a WAIT are micro-steps and POLLs. -/
theorem mem_waitTurns {gaps : List Nat} {s : State} {ts : List Turn} (h : waitTurns gaps s = some ts) :
    ∀ x ∈ ts, x = .seq ∨ x = .host .poll := by
  induction gaps generalizing s ts with
  | nil => cases h
  | cons gap gaps ih =>
    obtain ⟨t, -, heq⟩ := waitTurns_cons_polled gap gaps s
    rw [heq] at h
    split at h
    · cases h
      exact fun x => mem_pollAfter
    · obtain ⟨ts', hts', rfl⟩ := Option.map_eq_some_iff.mp h
      exact fun x hx => (List.mem_append.mp hx).elim mem_pollAfter (ih hts' x)

/-- The turns of a WAIT go through, whatever is scheduled after them; the last POLL returns DONE and those before it
BUSY. -/
theorem run_waitTurns {gaps : List Nat} {s : State} {ts : List Turn} (h : waitTurns gaps s = some ts)
    (rest : List Turn) : ∃ (t : State) (n : Nat),
      run ts.length { s with turns := ts ++ rest } = .next t ∧ t.turns = rest ∧ t.phase = .done ∧
        ts.countP Turn.isPoll = n + 1 ∧
        t.replies = .status .done :: (List.replicate n (.status .busy) ++ s.replies) := by
  induction gaps generalizing s ts with
  | nil => cases h
  | cons gap gaps ih =>
    obtain ⟨u, hsu, heq⟩ := waitTurns_cons_polled gap gaps s
    rw [heq] at h
    split at h
    case isTrue hdone =>
      cases h
      exact ⟨{ u with turns := rest }, 0, hsu.run rest, rfl, hdone, countP_isPoll_pollAfter gap, by
        simp [hsu.replies, hdone, Phase.status]⟩
    case isFalse hdone =>
      obtain ⟨ts', hts', rfl⟩ := Option.map_eq_some_iff.mp h
      have hidle : u.phase ≠ .idle := fun hidle => by simp [waitTurns_of_idle gaps hidle] at hts'
      obtain ⟨t, n, hrun, hturns, hphase, hcount, hreplies⟩ := ih hts'
      refine ⟨t, n + 1, ?_, hturns, hphase, ?_, ?_⟩
      · rw [List.length_append, List.append_assoc, run_add _ (hsu.run _), hrun]
      · rw [List.countP_append, hcount, countP_isPoll_pollAfter, Nat.add_comm]
      · rw [hreplies, hsu.replies, status_eq_busy hidle hdone, List.replicate_succ', List.append_assoc,
          List.singleton_append]

/-- Settles O56: by induction on the list of WAIT, its first POLL ends it or leaves a WAIT on the rest of the list. -/
theorem waitPollsUntilDone : Obligations.WaitPollsUntilDone :=
  fun _ gaps => ⟨waitTurns_of_idle gaps, isSome_waitTurns_iff gaps, fun _ hts => ⟨mem_waitTurns hts, run_waitTurns hts⟩⟩

end Sys2Proof.Machine
end

section
/-! START (`spec/40_commands.md` R83 to R85): an equation for each way it is examined, and its effect for either width. -/

namespace Sys2Proof.Machine

theorem busy_eq_true_iff (p : Phase) : p.busy = true ↔ p = .seed ∨ p = .div ∨ p = .store := by
  cases p <;> decide

theorem busy_eq_false_iff (p : Phase) : p.busy = false ↔ p = .idle ∨ p = .done := by
  cases p <;> decide

theorem startRun_of_busy (w : Width) (p : Nat) {s : State} (hb : s.phase.busy = true) :
    startRun w p s = .refused .busy :=
  if_pos hb

theorem startRun_of_not_busy (w : Width) (p : Nat) {s : State} (hb : s.phase.busy = false) :
    startRun w p s = .next (acceptStart w p s) :=
  if_neg (by simp [hb])

theorem refuseStart_of_busy {s : State} (hb : s.phase.busy = true) : refuseStart s = .refused .busy :=
  if_pos hb

theorem refuseStart_of_not_busy {s : State} (hb : s.phase.busy = false) : refuseStart s = .refused .illegalWidth :=
  if_neg (by simp [hb])

/-- A START of a legal width, by the number in its width field (R63). -/
theorem hostTurn_start_of_bits {cmd : CmdWord} {w : Width} (h : cmd.toNat / 2 ^ 32 = w.bits) (s : State) :
    hostTurn (.start cmd) s = startRun w (cmd.toNat % 2 ^ 32) s := by
  rw [hostTurn_start, ← toNat_polyField]
  cases w with
  | w8 => rw [if_pos ((widthField_eq_iff cmd 0x08#8).mpr h)]
  | w16 =>
    have h16 : widthField cmd = 0x10#8 := (widthField_eq_iff cmd 0x10#8).mpr h
    rw [if_neg (by simp [h16]), if_pos h16]

/-- A START of another width (R69). -/
theorem hostTurn_start_of_illegalWidth {cmd : CmdWord} (h8 : cmd.toNat / 2 ^ 32 ≠ 8) (h16 : cmd.toNat / 2 ^ 32 ≠ 16)
    (s : State) : hostTurn (.start cmd) s = refuseStart s := by
  rw [hostTurn_start, if_neg (mt (widthField_eq_iff cmd 0x08#8).mp h8), if_neg (mt (widthField_eq_iff cmd 0x10#8).mp h16)]

/-- BUSY is looked at first: it refuses a START whatever its word (R85). -/
theorem hostTurn_start_of_busy (cmd : CmdWord) {s : State} (hb : s.phase.busy = true) :
    hostTurn (.start cmd) s = .refused .busy := by
  rw [hostTurn_start, startRun_of_busy _ _ hb, startRun_of_busy _ _ hb, refuseStart_of_busy hb, ite_self, ite_self]

/-- Settles O10: while BUSY every START is refused, and otherwise its width alone decides. -/
theorem startIsExaminedInOrder : Obligations.StartIsExaminedInOrder := by
  intro s cmd ts hturns
  rw [step_host hturns, ← busy_eq_true_iff, ← busy_eq_false_iff]
  refine ⟨fun hb => hostTurn_start_of_busy cmd hb, fun hb => ⟨fun ⟨h8, h16⟩ => ?_, fun h8 => ?_, fun h16 => ?_⟩⟩
  · exact (hostTurn_start_of_illegalWidth h8 h16 _).trans (refuseStart_of_not_busy hb)
  · exact (hostTurn_start_of_bits (w := .w8) h8 _).trans (startRun_of_not_busy _ _ hb)
  · exact (hostTurn_start_of_bits (w := .w16) h16 _).trans (startRun_of_not_busy _ _ hb)

/-- What a START of a legal width does, and what it leaves unchanged, by phase (R83, R84, R85). -/
theorem startRun_effect (w : Width) (p : Nat) (s : State) :
    (s.phase = .idle ∨ s.phase = .done → ∃ t, startRun w p s = .next t ∧ t.wsel = w ∧
      t.poly.toNat = truncW w p ∧ t.i = 0 ∧ t.k = 0 ∧ (∀ j, Memory.read t.table j = none) ∧ t.phase = .seed ∧
      t = { s with wsel := t.wsel, poly := t.poly, i := t.i, k := t.k, table := t.table, phase := t.phase }) ∧
    (s.phase = .seed ∨ s.phase = .div ∨ s.phase = .store → startRun w p s = .refused .busy) := by
  rw [← busy_eq_true_iff, ← busy_eq_false_iff]
  exact ⟨fun hb => ⟨acceptStart w p s, startRun_of_not_busy w p hb, rfl, toNat_polyOperand w p, rfl, rfl,
    fun _ => rfl, rfl, rfl⟩, startRun_of_busy w p⟩

/-- Settles O15: GEN8 is a START of width 8. -/
theorem gen8StartsARun : Obligations.Gen8StartsARun :=
  startRun_effect .w8

/-- Settles O16: GEN16 is a START of width 16. -/
theorem gen16StartsARun : Obligations.Gen16StartsARun :=
  startRun_effect .w16

end Sys2Proof.Machine
end

section
/-! RDTAB (`spec/40_commands.md` R86), an equation for each of its outcomes, and the contract that it returns in DONE
(R80 to R82). -/

namespace Sys2Proof.Machine

theorem execRdtab_of_written {idx : Byte} {s : State} {e : Entry} (hp : s.phase = .done)
    (he : Memory.read s.table idx.toNat = some e) :
    execRdtab idx s = .next (returnToHost (.entry (portValue e)) s) := by
  simp only [execRdtab, hp, he, if_true]

theorem execRdtab_of_unwritten {idx : Byte} {s : State} (hp : s.phase = .done)
    (he : Memory.read s.table idx.toNat = none) : execRdtab idx s = .fault .unwrittenEntry := by
  simp only [execRdtab, hp, he, if_true]

theorem execRdtab_of_ne_done {idx : Byte} {s : State} (hp : s.phase ≠ .done) :
    execRdtab idx s = .refused .tableNotReady :=
  if_neg hp

/-- Settles O18: a written entry goes to the host through the read port, which keeps its number. -/
theorem rdtabReturnsTheEntry : Obligations.RdtabReturnsTheEntry := by
  refine fun idx s => ⟨fun e hp he => ⟨portValue e, execRdtab_of_written hp he, toNat_portValue e, fun hw => ?_⟩,
    execRdtab_of_ne_done, execRdtab_of_unwritten⟩
  have hlt := e.toNat_lt
  rw [hw] at hlt
  rwa [toNat_portValue]

/-- `generate` lists the entries of the truncated polynomial in index order (R80 to R82). -/
theorem generate_bits (w : Width) (p : Nat) :
    generate w.bits p = some ((List.range 256).map (tableEntry w (truncW w p))) := by
  cases w <;> rfl

/-- Settles O42: in DONE the invariants have every entry written with its value of the contract, for a latched
polynomial that truncation leaves as it is. -/
theorem rdtabReturnsTheContract : Obligations.RdtabReturnsTheContract := by
  intro s idx hinv hp
  have hall : idx.toNat < writtenBelow s := by
    simp only [writtenBelow, hp]
    exact idx.isLt
  have htrunc : truncW s.wsel s.poly.toNat = s.poly.toNat := Nat.mod_eq_of_lt (hinv.poly_lt (by simp [hp]))
  obtain ⟨e, he, hvalue⟩ := hinv.tableUpTo.written idx.toNat idx.isLt hall
  refine ⟨_, portValue e, generate_bits s.wsel s.poly.toNat, ?_, execRdtab_of_written hp he⟩
  rw [List.getElem?_map, List.getElem?_range idx.isLt, Option.map_some, htrunc, toNat_portValue, hvalue]

/-- A width-16 round of the contract stays within 16 bits. -/
theorem next16_fst_lt {p : Nat} (hp : p < 2 ^ 16) (x : Nat × Nat) : (next16 p x).1 < 2 ^ 16 := by
  have hshift : 2 * x.1 % 2 ^ 16 < 2 ^ 16 := Nat.mod_lt _ (by decide)
  simp only [next16]
  split
  · exact Nat.xor_lt_two_pow hshift hp
  · exact hshift

/-- Every entry is within the width (R138). -/
theorem tableEntry_lt {w : Width} {p i : Nat} (hp : p < 2 ^ w.bits) (hi : i < 256) :
    tableEntry w p i < 2 ^ w.bits := by
  cases w with
  | w8 => exact iter8_lt hp hi 8
  | w16 => exact next16_fst_lt hp (iter16 p i 7)

/-- The table of either width has 256 entries within the width (R136, R138). -/
theorem generate_bits_contained (w : Width) (p : Nat) :
    ∃ T, generate w.bits p = some T ∧ T.length = 256 ∧ ∀ e ∈ T, e < 2 ^ w.bits := by
  refine ⟨_, generate_bits w p, by simp, fun e he => ?_⟩
  obtain ⟨i, hi, rfl⟩ := List.mem_map.mp he
  exact tableEntry_lt (Nat.mod_lt p (Nat.two_pow_pos _)) (List.mem_range.mp hi)

/-- Settles O45: the two widths are those of `WSEL`, and `generate` answers nothing for another. -/
theorem generateIsTotalOnItsWidths : Obligations.GenerateIsTotalOnItsWidths := by
  refine fun w p => ⟨fun hw => ?_, fun h8 h16 => ?_⟩
  · rcases hw with rfl | rfl
    · exact generate_bits_contained .w8 p
    · exact generate_bits_contained .w16 p
  · rw [generate, if_neg h8, if_neg h16]

end Sys2Proof.Machine
end

section
/-! A run left to the sequencer (`spec/40_commands.md` R89, `spec/70_reset_and_hazards.md` R173): with nothing scheduled
every step is a micro-step, so DONE comes when the count of `remaining` is used up, and not before. -/

namespace Sys2Proof.Machine

/-- A whole run is 256 entries of ten micro-steps (R124). -/
theorem remaining_le (s : State) : remaining s ≤ 2560 := by
  cases hp : s.phase with
  | idle => simp [remaining_idle hp]
  | seed => rw [remaining_seed hp]; omega
  | div => rw [remaining_div hp]; omega
  | store => rw [remaining_store hp]; omega
  | done => simp [remaining_done hp]

theorem turns_of_sequencerTurn {s t : State} (h : sequencerTurn s = .next t) : t.turns = s.turns := by
  rcases sequencerTurn_cases s with
    ⟨-, heq⟩ | ⟨-, -, heq⟩ | ⟨-, -, heq⟩ | ⟨-, -, heq⟩ | ⟨-, -, heq⟩ | ⟨-, heq⟩ <;>
    rw [heq] at h <;> cases h <;> simp

/-- With nothing scheduled `n` steps are `n` micro-steps, and all of them go through (log 4). -/
theorem run_unscheduled (n : Nat) {s : State} (hturns : s.turns = []) : ∃ t, run n s = .next t ∧ Advanced n s t := by
  induction n generalizing s with
  | zero => exact ⟨s, rfl, .refl s⟩
  | succ n ih =>
    obtain ⟨u, hu⟩ := sequencerTurn_next s
    obtain ⟨t, hrun, hut⟩ := ih ((turns_of_sequencerTurn hu).trans hturns)
    refine ⟨t, ?_, Nat.add_comm 1 n ▸ (advanced_of_sequencerTurn hu).trans hut⟩
    rw [run_succ_next ((step_nil hturns).trans hu), hrun]

/-- A run that has begun is BUSY as long as fewer micro-steps are done than it needs, and then in DONE. -/
theorem Advanced.busy_iff {n : Nat} {s t : State} (h : Advanced n s t) (hp : s.phase ≠ .idle) :
    t.phase.busy = true ↔ n < Machine.remaining s := by
  have ht : t.phase ≠ .idle := mt h.idle.mp hp
  rw [← Bool.not_eq_false, busy_eq_false_iff, or_iff_right ht, ← remaining_eq_zero_iff ht, h.remaining]
  omega

/-- Settles O37: by induction on the number of steps, each is a micro-step nearer to DONE, which is where none remain. -/
theorem everyRunComesToDone : Obligations.EveryRunComesToDone := by
  intro s hb hturns
  have hp : s.phase ≠ .idle := fun hidle => by simp [hidle, Phase.busy] at hb
  refine ⟨remaining_le s, ?_, fun m hm => ?_⟩
  · obtain ⟨t, hrun, hst⟩ := run_unscheduled (remaining s) hturns
    have hzero : remaining t = 0 := by rw [hst.remaining, Nat.sub_self]
    exact ⟨t, hrun, (remaining_eq_zero_iff (mt hst.idle.mp hp)).mp hzero⟩
  · obtain ⟨u, hrun, hsu⟩ := run_unscheduled m hturns
    exact ⟨u, hrun, (hsu.busy_iff hp).mpr hm⟩

end Sys2Proof.Machine
end

section
/-! The width-8 micro-operations (`spec/41_microops_w8.md` R100, R101): the number a DIV8 round leaves in `R`, and what
the end of a DIV step does to the counter and the phase, whatever the round wrote. -/

namespace Sys2Proof.Machine

/-- The round of R81 on the low bytes of two words, its carry read off the whole word: bit 7 is in the low byte. -/
theorem next8_mod (p r : Nat) : next8 (p % 256) (r % 256) =
    if r / 128 % 2 = 1 then (2 * (r % 256) % 256) ^^^ (p % 256) else 2 * (r % 256) % 256 := by
  have hcarry : (r % 256).testBit 7 = true ↔ r / 128 % 2 = 1 := by
    rw [Nat.testBit_eq_decide_div_mod_eq, decide_eq_true_iff]
    omega
  exact if_congr hcarry rfl rfl

/-- A DIV step's end: the eighth round goes on to STORE, the others count; only `K` and the phase change (R101, R111). -/
theorem countRound_effect (s : State) :
    (s.k = 7 → (countRound s).k = 0 ∧ (countRound s).phase = .store) ∧
    (s.k ≠ 7 → (countRound s).k.toNat = s.k.toNat + 1 ∧ (countRound s).phase = s.phase) ∧
    countRound s = { s with k := (countRound s).k, phase := (countRound s).phase } := by
  by_cases hk : s.k = 7
  · rw [countRound_eighth hk]
    exact ⟨fun _ => ⟨rfl, rfl⟩, absurd hk, rfl⟩
  · rw [countRound_more hk]
    exact ⟨(absurd · hk), fun _ => ⟨toNat_add_one_of_ne_seven hk, rfl⟩, rfl⟩

/-- Settles O19: the index goes to `R` zero-extended, and `enterDiv` writes only the counter and the phase. -/
theorem seed8Result : Obligations.Seed8Result :=
  ⟨Selects.seed8.decode_eq, fun s => ⟨enterDiv { s with r := seedLow s.i }, rfl, toNat_seedLow s.i, rfl, rfl, rfl⟩⟩

/-- Settles O20: `R` gets a round of R81 on the low bytes of `R` and `POLY`, and `countRound` ends the step. -/
theorem div8Result : Obligations.Div8Result := by
  refine ⟨Selects.div8.decode_eq, fun s => ?_⟩
  obtain ⟨hlast, hmore, hframe⟩ := countRound_effect { s with r := zext16 (round8 (low8 s.poly) (low8 s.r)) }
  refine ⟨_, rfl, ?_, hlast, hmore, ?_⟩ <;> rw [countRound_r]
  · calc (zext16 (round8 (low8 s.poly) (low8 s.r))).toNat
        = next8 (s.poly.toNat % 256) (s.r.toNat % 256) := by simp [toNat_round8]
      _ = _ := next8_mod s.poly.toNat s.r.toNat
  · exact hframe

end Sys2Proof.Machine
end

section
/-! The width-16 micro-operations (`spec/42_microops_w16.md` R110, R111): the number a DIV16 round leaves in `R`, its carry
read off the top bits of `R` and `B`. -/

namespace Sys2Proof.Machine

/-- The bits of two numbers at one place differ just where the numbers shifted down to it have an odd sum. -/
theorem testBit_xor_iff_add_mod (r b n : Nat) : (r ^^^ b).testBit n = true ↔ (r / 2 ^ n + b / 2 ^ n) % 2 = 1 := by
  rw [Nat.testBit_xor, Nat.testBit_eq_decide_div_mod_eq, Nat.testBit_eq_decide_div_mod_eq, bne_iff_ne, ne_eq,
    decide_eq_decide]
  omega

/-- The working register after a round of R82; the carry is set where the top bits of the two registers differ. -/
theorem next16_fst (p r b : Nat) : (next16 p (r, b)).1 =
    if (r / 32768 + b / 32768) % 2 = 1 then (2 * r % 65536) ^^^ p else 2 * r % 65536 :=
  if_congr (testBit_xor_iff_add_mod r b 15) rfl rfl

/-- Settles O21: the index goes to the high byte of `B` beside an empty `R`, and `enterDiv` writes only the counter and
the phase. -/
theorem seed16Result : Obligations.Seed16Result :=
  ⟨Selects.seed16.decode_eq, fun s =>
    ⟨enterDiv { s with r := 0, b := seedHigh s.i }, rfl, rfl, toNat_seedHigh s.i, rfl, rfl, rfl⟩⟩

/-- Settles O22: `R` gets a round of R82 on `R` and `B`, `B` is shifted, and `countRound` ends the step. -/
theorem div16Result : Obligations.Div16Result := by
  refine ⟨Selects.div16.decode_eq, fun s => ?_⟩
  obtain ⟨hlast, hmore, hframe⟩ := countRound_effect { s with r := round16 s.poly s.r s.b, b := shl s.b }
  refine ⟨_, rfl, ?_, ?_, hlast, hmore, ?_⟩
  · calc (countRound { s with r := round16 s.poly s.r s.b, b := shl s.b }).r.toNat
        = (round16 s.poly s.r s.b).toNat := by rw [countRound_r]
      _ = (next16 s.poly.toNat (s.r.toNat, s.b.toNat)).1 := congrArg Prod.fst (toNat_round16 s.poly s.r s.b)
      _ = _ := next16_fst s.poly.toNat s.r.toNat s.b.toNat
  · rw [countRound_b]
    exact toNat_shl s.b
  · rw [countRound_r, countRound_b]
    exact hframe

end Sys2Proof.Machine
end

section
/-! A run meanwhile acted on by the host (`spec/43_store_and_sequencing.md` R125): what each action other than RESET
does to a BUSY block. -/

namespace Sys2Proof.Machine

theorem ne_done_of_busy {p : Phase} (h : p.busy = true) : p ≠ .done := by
  rintro rfl
  cases h

theorem ne_idle_of_busy {p : Phase} (h : p.busy = true) : p ≠ .idle := by
  rintro rfl
  cases h

/-- A refused host action costs its turn and leaves a mark. -/
theorem hwStep_of_hostTurn_refused {s : State} {q : Request} {ts : List Turn} {r : Refusal} (rs : List Refusal)
    (hturns : s.turns = .host q :: ts) (h : hostTurn q { s with turns := ts } = .refused r) :
    hwStep ⟨s, rs⟩ = .next ⟨{ s with turns := ts }, r :: rs⟩ := by
  rw [hwStep_refused ((step_host hturns).trans h), withTurns_eq_dropTurn (by rw [hturns, List.tail_cons])]

/-- Settles O36: POLL only reads `STATUS`, and BUSY is what START and RDTAB are refused for. -/
theorem hostCannotTouchARun : Obligations.HostCannotTouchARun := by
  intro s rs q ts hb hturns
  refine ⟨?_, ?_, ?_⟩
  · rintro rfl
    have hstatus : s.phase.status = .busy := status_eq_busy (ne_idle_of_busy hb) (ne_done_of_busy hb)
    rw [hwStep_next ((step_host hturns).trans (hostTurn_poll _)), ← hstatus]
    rfl
  · rintro cmd rfl
    exact hwStep_of_hostTurn_refused rs hturns (hostTurn_start_of_busy cmd hb)
  · rintro idx rfl
    exact hwStep_of_hostTurn_refused rs hturns (execRdtab_of_ne_done (ne_done_of_busy hb))

end Sys2Proof.Machine
end

section
/-! The shape of a run (`spec/43_store_and_sequencing.md` R122 to R124): the count of micro-steps that remain says which
phase, entry and round a run is at, and an invariant says which entries are written there. -/

namespace Sys2Proof.Machine

/-- Where a run is when so many micro-steps remain: `c` of the ten of entry `i` are done (R122, R123). -/
theorem position_of_remaining {s : State} {i c : Nat} (hi : i < 256) (hc : c < 10)
    (h : remaining s = 2560 - (10 * i + c)) :
    s.i.toNat = i ∧ (c = 0 → s.phase = .seed) ∧ (∀ k, c = 1 + k → k < 8 → s.phase = .div ∧ s.k.toNat = k) ∧
      (c = 9 → s.phase = .store) := by
  have hsi := s.i.isLt
  have hsk := s.k.isLt
  cases hp : s.phase with
  | idle => rw [remaining_idle hp] at h; omega
  | seed =>
    rw [remaining_seed hp] at h
    exact ⟨by omega, fun _ => rfl, by omega, by omega⟩
  | div =>
    rw [remaining_div hp] at h
    exact ⟨by omega, by omega, fun k _ _ => ⟨rfl, by omega⟩, by omega⟩
  | store =>
    rw [remaining_store hp] at h
    exact ⟨by omega, by omega, by omega, fun _ => rfl⟩
  | done => rw [remaining_done hp] at h; omega

/-- The first `n` entries are written, with whatever values, and no others. -/
def WrittenUpTo (m : Memory) (n : Nat) : Prop := ∀ j, j < 256 → ((Memory.read m j).isSome = true ↔ j < n)

theorem WrittenUpTo.write {m : Memory} {n : Nat} (h : WrittenUpTo m n) (e : Entry) :
    WrittenUpTo (Memory.write m n e) (n + 1) := by
  intro j hj
  by_cases hjn : j = n
  · simp [hjn]
  · rw [Memory.read_write_other m n j e hjn, h j hj]
    omega

theorem WrittenUpTo.iff_le {m : Memory} {n : Nat} (h : WrittenUpTo m (n + 1)) (j : Nat) (hj : j < 256) :
    (Memory.read m j).isSome = true ↔ j ≤ n :=
  (h j hj).trans Nat.lt_succ_iff

/-- The entries written are those before the current one, no round is done between entries, and DONE is at the last
one. Unlike `RunInvariant` this asks nothing of the polynomial or the registers. -/
structure Shaped (s : State) : Prop where
  written : WrittenUpTo s.table (writtenBelow s)
  noRound : s.phase = .seed ∨ s.phase = .store → s.k = 0
  lastEntry : s.phase = .done → s.i = 255

theorem writtenBelow_of_busy {s : State} (hb : s.phase.busy = true) : writtenBelow s = s.i.toNat := by
  unfold writtenBelow
  cases hp : s.phase <;> simp [hp, Phase.busy] at hb ⊢

theorem Shaped.written_of_busy {s : State} (h : Shaped s) (hb : s.phase.busy = true) :
    WrittenUpTo s.table s.i.toNat :=
  writtenBelow_of_busy hb ▸ h.written

/-! ## The shared operations -/

/-- At the start of a run and in IDLE no entry is written. -/
theorem shaped_of_unwritten {s : State} (hbelow : writtenBelow s = 0) (hread : ∀ j, Memory.read s.table j = none)
    (hk : s.phase = .seed ∨ s.phase = .store → s.k = 0) (hdone : s.phase ≠ .done) : Shaped s where
  written j _ := by simp [hread, hbelow]
  noRound := hk
  lastEntry h := absurd h hdone

theorem shaped_enterDiv {s : State} (hwritten : WrittenUpTo s.table s.i.toNat) : Shaped (enterDiv s) where
  written := hwritten
  noRound h := by simp at h
  lastEntry h := by simp at h

theorem shaped_countRound {s : State} (hp : s.phase = .div) (hwritten : WrittenUpTo s.table s.i.toNat) :
    Shaped (countRound s) := by
  by_cases hk : s.k = 7
  · rw [countRound_eighth hk]
    exact ⟨hwritten, fun _ => rfl, fun h => by simp at h⟩
  · rw [countRound_more hk]
    exact ⟨by simpa [writtenBelow, hp] using hwritten, fun h => by simp [hp] at h, fun h => by simp [hp] at h⟩

theorem shaped_nextEntry {s : State} (hwritten : WrittenUpTo s.table (s.i.toNat + 1)) (hk : s.k = 0) :
    Shaped (nextEntry s) := by
  by_cases hi : s.i = 255
  · rw [nextEntry_last hi]
    exact ⟨by simpa [hi, writtenBelow] using hwritten, fun _ => hk, fun _ => hi⟩
  · rw [nextEntry_more hi]
    rw [← toNat_add_one_of_ne_255 hi] at hwritten
    exact ⟨hwritten, fun _ => hk, fun h => by simp at h⟩

/-! ## Steps and runs -/

/-- Every move keeps the shape. -/
theorem Move.shaped {s t : State} (hmove : Move s t) (h : Shaped s) : Shaped t := by
  have hu : Shaped (dropTurn s) := ⟨h.written, h.noRound, h.lastEntry⟩
  have hbusy : s.phase.busy = true → WrittenUpTo (dropTurn s).table (dropTurn s).i.toNat := hu.written_of_busy
  cases hmove with
  | wait => exact hu
  | seed8 _ hp | seed16 _ hp => exact shaped_enterDiv (hbusy (by rw [hp]; rfl))
  | div8 _ hp | div16 _ hp => exact shaped_countRound hp (hbusy (by rw [hp]; rfl))
  | store _ hp => exact shaped_nextEntry ((hbusy (by rw [hp]; rfl)).write _) (hu.noRound (.inr hp))
  | poll | rdtab => exact ⟨hu.written, hu.noRound, hu.lastEntry⟩
  | start => exact shaped_of_unwritten rfl (fun _ => rfl) (fun _ => rfl) (by simp)
  | reset => exact shaped_of_unwritten rfl (fun _ => rfl) (by simp) (by simp)

/-- `n` micro-steps from the start of a run: the shape is kept, and what remains is counted down from 2560. -/
theorem run_shaped {s : State} (hp : s.phase = .seed) (hi : s.i = 0) (hs : Shaped s) (hturns : s.turns = []) (n : Nat) :
    ∃ u, run n s = .next u ∧ Shaped u ∧ u.phase ≠ .idle ∧ remaining u = 2560 - n := by
  obtain ⟨u, hrun, hsu⟩ := run_unscheduled n hturns
  refine ⟨u, hrun, run_keeps (fun s t hs hstep => (step_move hstep).shaped hs) hs hrun, ?_, ?_⟩
  · exact mt hsu.idle.mp (by simp [hp])
  · rw [hsu.remaining, remaining_seed hp, hi]
    rfl

/-- Settles O38: the micro-steps that remain are counted down from 2560, and the count says where the run is. -/
theorem shapeOfARun : Obligations.ShapeOfARun := by
  intro s hp hi hk hread hturns i hlt
  have hbelow : writtenBelow s = 0 := by
    rw [writtenBelow_of_busy (by rw [hp]; rfl), hi]
    rfl
  have hrun := run_shaped hp hi (shaped_of_unwritten hbelow hread (fun _ => hk) (by simp [hp])) hturns
  refine ⟨fun k hk8 => ?_, ?_⟩
  · obtain ⟨u, hu, hshape, -, hrem⟩ := hrun (10 * i + 1 + k)
    obtain ⟨hui, -, hdiv, hstore⟩ := position_of_remaining (c := 1 + k) hlt (by omega) (by rw [hrem, Nat.add_assoc])
    refine ⟨u, hu, hui, hdiv k rfl, ?_⟩
    rintro rfl
    exact ⟨hstore rfl, hshape.noRound (.inr (hstore rfl))⟩
  · obtain ⟨u, hu, hshape, hidle, hrem⟩ := hrun (10 * i + 10)
    refine ⟨u, hu, ?_⟩
    by_cases hlast : i = 255
    · subst hlast
      have hdone : u.phase = .done := (remaining_eq_zero_iff hidle).mp hrem
      have hall : writtenBelow u = 255 + 1 := by simp only [writtenBelow, hdone]
      exact ⟨(hall ▸ hshape.written).iff_le, fun h => absurd h (lt_irrefl _), fun _ => ⟨hdone, hshape.lastEntry hdone⟩⟩
    · obtain ⟨hui, hseed, -⟩ := position_of_remaining (s := u) (i := i + 1) (c := 0) (by omega) (by omega) hrem
      have hwritten := hshape.written_of_busy (by rw [hseed rfl]; rfl)
      rw [hui] at hwritten
      exact ⟨hwritten.iff_le, fun _ => ⟨hseed rfl, hui⟩, (absurd · hlast)⟩

end Sys2Proof.Machine
end

section
/-! An accepted START (`spec/43_store_and_sequencing.md` R127): what a run under way still has before it, kept by every
turn that is not a RESET, down to DONE. -/

namespace Sys2Proof.Machine

/-- A run of width `w` with the polynomial `p` that needs `n` more micro-steps. -/
structure Pending (w : Width) (p : Word16) (n : Nat) (s : State) : Prop where
  invariant : RunInvariant s
  begun : s.phase ≠ .idle
  wsel : s.wsel = w
  poly : s.poly = p
  remaining : remaining s = n

theorem pending_acceptStart (w : Width) (p : Nat) (s : State) :
    Pending w (polyOperand w p) 2560 (acceptStart w p s) where
  invariant := runInvariant_acceptStart w p s
  begun := by simp
  wsel := rfl
  poly := rfl
  remaining := rfl

/-- A START of a legal width outside BUSY begins a run of 2560 micro-steps (R85, R124). -/
theorem pending_of_start {s : State} {w : Width} {cmd : CmdWord} {ts : List Turn} (hb : s.phase.busy = false)
    (hbits : cmd.toNat / 2 ^ 32 = w.bits) (hturns : s.turns = .host (.start cmd) :: ts) :
    ∃ t, step s = .next t ∧ Pending w (polyOperand w (cmd.toNat % 2 ^ 32)) 2560 t ∧ t.turns = ts := by
  refine ⟨acceptStart w (cmd.toNat % 2 ^ 32) { s with turns := ts }, ?_, pending_acceptStart w _ _, rfl⟩
  rw [step_host hturns, hostTurn_start_of_bits hbits]
  exact startRun_of_not_busy w _ hb

variable {w : Width} {p : Word16} {n : Nat} {s : State}

theorem Pending.busy (h : Pending w p (n + 1) s) : s.phase.busy = true := by
  have hdone : s.phase ≠ .done := mt (remaining_eq_zero_iff h.begun).mpr (by simp [h.remaining])
  rw [← Bool.not_eq_false, busy_eq_false_iff, not_or]
  exact ⟨h.begun, hdone⟩

/-- Neither the schedule nor the replies are the run's. -/
theorem Pending.withHost (h : Pending w p n s) (ts : List Turn) (vs : List Reply) :
    Pending w p n { s with turns := ts, replies := vs } :=
  ⟨⟨h.invariant.table, h.invariant.poly_lt, h.invariant.noRound, h.invariant.midEntry, h.invariant.entryDone,
    h.invariant.lastEntry⟩, h.begun, h.wsel, h.poly, h.remaining⟩

/-- No micro-operation writes a latch (R27, R28). -/
theorem latches_of_sequencerTurn {s t : State} (h : sequencerTurn s = .next t) : t.wsel = s.wsel ∧ t.poly = s.poly := by
  rcases sequencerTurn_cases s with
    ⟨-, heq⟩ | ⟨-, -, heq⟩ | ⟨-, -, heq⟩ | ⟨-, -, heq⟩ | ⟨-, -, heq⟩ | ⟨-, heq⟩ <;>
    rw [heq] at h <;> cases h <;> simp

/-- On the sequencer's turn the run is one micro-step further. -/
theorem Pending.of_seqTurn (h : Pending w p (n + 1) s) {ts : List Turn} (hturns : s.turns = .seq :: ts) :
    ∃ t, step s = .next t ∧ Pending w p n t ∧ t.turns = ts := by
  obtain ⟨t, ht⟩ := sequencerTurn_next { s with turns := ts }
  have hstep : step s = .next t := (step_seq hturns).trans ht
  have hadv : Advanced 1 { s with turns := ts } t := advanced_of_sequencerTurn ht
  obtain ⟨hwsel, hpoly⟩ := latches_of_sequencerTurn ht
  refine ⟨t, hstep, ?_, turns_of_sequencerTurn ht⟩
  exact {
    invariant := (step_move hstep).runInvariant h.invariant
    begun := mt hadv.idle.mp h.begun
    wsel := hwsel.trans h.wsel
    poly := hpoly.trans h.poly
    remaining := hadv.remaining.trans (congrArg (· - 1) h.remaining) }

/-- How many of the turns are STARTs and RDTABs, where none is a RESET. -/
def refusable (ts : List Turn) : Nat := ts.countP fun x => !x.isSeq && !x.isPoll

theorem refusable_cons (x : Turn) (ts : List Turn) : refusable (x :: ts) = refusable [x] + refusable ts :=
  List.countP_append (l₁ := [x])

theorem seqTurns_cons (x : Turn) (ts : List Turn) : seqTurns (x :: ts) = seqTurns [x] + seqTurns ts :=
  List.countP_append (l₁ := [x])

/-- One turn of a run that is not over after it: a micro-step, or a host action that leaves the run where it is and is
refused unless it is POLL (R125). -/
theorem hwStep_pending {x : Turn} {ts : List Turn} (h : Pending w p (seqTurns [x] + (n + 1)) s)
    (hturns : s.turns = x :: ts) (hx : x.isReset = false) (rs : List Refusal) :
    ∃ m, hwStep ⟨s, rs⟩ = .next m ∧ Pending w p (n + 1) m.state ∧ m.state.turns = ts ∧
      m.refusals.length = rs.length + refusable [x] := by
  cases x with
  | seq =>
    obtain ⟨t, hstep, ht, htturns⟩ := Pending.of_seqTurn (n := n + 1) (Nat.add_comm _ _ ▸ h) hturns
    exact ⟨⟨t, rs⟩, hwStep_next hstep, ht, htturns, rfl⟩
  | host q =>
    have hstay : Pending w p (n + 1) s := by simpa using h
    obtain ⟨hpoll, hstart, hrdtab⟩ := hostCannotTouchARun s rs q ts hstay.busy hturns
    cases q with
    | reset => cases hx
    | poll => exact ⟨_, hpoll rfl, hstay.withHost _ _, rfl, rfl⟩
    | start cmd => exact ⟨_, hstart cmd rfl, hstay.withHost _ _, rfl, rfl⟩
    | rdtab idx => exact ⟨_, hrdtab idx rfl, hstay.withHost _ _, rfl, rfl⟩
  | resetWith q => cases hx

/-- Turns that leave the run at least one micro-step. -/
theorem hwRun_pending {ts tail : List Turn} (h : Pending w p (seqTurns ts + (n + 1)) s) (hturns : s.turns = ts ++ tail)
    (hts : ∀ x ∈ ts, x.isReset = false) (rs : List Refusal) :
    ∃ m, hwRun ts.length ⟨s, rs⟩ = .next m ∧ Pending w p (n + 1) m.state ∧ m.state.turns = tail ∧
      m.refusals.length = rs.length + refusable ts := by
  induction ts generalizing s rs with
  | nil => exact ⟨⟨s, rs⟩, rfl, by simpa using h, hturns, rfl⟩
  | cons x ts ih =>
    rw [seqTurns_cons, Nat.add_assoc] at h
    obtain ⟨⟨u, rsu⟩, hstep, hu, huturns, hlenu⟩ := hwStep_pending (n := seqTurns ts + n) h hturns (hts x (.head _)) rs
    obtain ⟨m, hrun, hm, hmturns, hlen⟩ := ih hu huturns (fun y hy => hts y (.tail _ hy)) rsu
    refine ⟨m, ?_, hm, hmturns, ?_⟩
    · rw [List.length_cons, hwRun_succ_next hstep, hrun]
    · rw [hlen, hlenu, refusable_cons x ts, Nat.add_assoc]

/-- A run that needs no more micro-steps is in DONE with the whole table, the counters at their ends and the last entry
in `R`. -/
structure Finished (w : Width) (p : Nat) (s : State) : Prop where
  phase : s.phase = .done
  i : s.i = 255
  k : s.k = 0
  entries : ∀ j, j < 256 → (Memory.read s.table j).map Entry.toNat = some (tableEntry w p j)
  r : s.r.toNat = tableEntry w p 255
  b : w = .w16 → s.b = 0

theorem Pending.finished (h : Pending w p 0 s) : Finished w p.toNat s := by
  have hdone : s.phase = .done := (remaining_eq_zero_iff h.begun).mp h.remaining
  have hi : s.i = 255 := h.invariant.lastEntry hdone
  have hall : writtenBelow s = 256 := by simp only [writtenBelow, hdone]
  obtain ⟨hr, hb⟩ := (holdsRound_eight s).mp (h.invariant.entryDone (.inr hdone))
  have htable := h.invariant.table
  rw [h.wsel, h.poly] at hr htable
  rw [h.wsel] at hb
  rw [hi] at hr
  refine ⟨hdone, hi, h.invariant.noRound (.inr (.inr hdone)), fun j hj => ?_, hr, hb⟩
  obtain ⟨e, he, hvalue⟩ := htable.written j hj (hall ▸ hj)
  rw [he, Option.map_some, hvalue]

end Sys2Proof.Machine
end

section
/-! The theorem of R127: the START is accepted, the turns before the last leave one micro-step, and that ends the
run. -/

namespace Sys2Proof.Machine

theorem getElem?_map_range {f : Nat → Nat} {j : Nat} (hj : j < 256) : ((List.range 256).map f)[j]? = some (f j) := by
  rw [List.getElem?_map, List.getElem?_range hj, Option.map_some]

/-- Settles O39: the accepted START leaves 2560 micro-steps to do, the schedule all but one of them and the sequencer's
last turn that one; a run with none left to do has the table of the contract. -/
theorem acceptedStartBuildsTheTable : Obligations.AcceptedStartBuildsTheTable := by
  intro s rs w cmd ts rest hb hbits hturns hseq hnoReset
  obtain ⟨u, hstart, hu, huturns⟩ := pending_of_start hb hbits hturns
  rw [show 2560 = seqTurns ts + (0 + 1) by rw [hseq]] at hu
  obtain ⟨⟨v, rs'⟩, hrun, hv, hvturns, hlen⟩ := hwRun_pending hu huturns hnoReset rs
  obtain ⟨t, hlast, ht, htturns⟩ := hv.of_seqTurn hvturns
  have hfin := ht.finished
  rw [toNat_polyOperand] at hfin
  refine ⟨⟨t, rs'⟩, _, ?_, generate_bits w _, by simp, hfin.phase, ht.wsel, ?_, hfin.i, hfin.k, htturns, fun j hj => ?_,
    ?_, hfin.b, hlen⟩
  · calc hwRun (ts.length + 2) ⟨s, rs⟩ = hwRun (ts.length + 1) ⟨u, rs⟩ := hwRun_succ_next (hwStep_next hstart)
      _ = hwRun 1 ⟨v, rs'⟩ := hwRun_add 1 hrun
      _ = .next ⟨t, rs'⟩ := hwRun_succ_next (hwStep_next hlast)
  · rw [ht.poly, toNat_polyOperand, truncW]
  · rw [hfin.entries j hj, getElem?_map_range hj]
  · rw [hfin.r, getElem?_map_range (by decide)]

end Sys2Proof.Machine
end

section
/-! The sequencer's turn and STORE (`spec/43_store_and_sequencing.md` R120, R121): which micro-operation runs, what
STORE leaves, and that it alone comes to DONE. -/

namespace Sys2Proof.Machine

/-- When no turn is scheduled or the sequencer's is next, the sequencer moves and its turn is over (log 4). -/
theorem step_of_seqTurn {s : State} {ts : List Turn} (h : s.turns = [] ∧ ts = [] ∨ s.turns = .seq :: ts) :
    step s = sequencerTurn { s with turns := ts } := by
  rcases h with ⟨hnil, rfl⟩ | hseq
  · rw [step_nil hnil, ← hnil]
  · exact step_seq hseq

/-- Settles O8: the step is the sequencer's turn, which has an equation for each phase and width. -/
theorem stepSelectsTheMicroOperation : Obligations.StepSelectsTheMicroOperation := by
  intro s ts h
  rw [step_of_seqTurn h]
  let u : State := { s with turns := ts }
  exact ⟨@sequencerTurn_seed8 u, @sequencerTurn_seed16 u, @sequencerTurn_div8 u, @sequencerTurn_div16 u,
    @sequencerTurn_store u, @sequencerTurn_wait u⟩

/-- A STORE step's end: after entry 255 the run is over, else the next entry is up; only `I` and the phase change
(R120). -/
theorem nextEntry_effect (s : State) :
    (s.i = 255 → (nextEntry s).phase = .done ∧ (nextEntry s).i = 255) ∧
    (s.i ≠ 255 → (nextEntry s).phase = .seed ∧ (nextEntry s).i.toNat = s.i.toNat + 1) ∧
    nextEntry s = { s with i := (nextEntry s).i, phase := (nextEntry s).phase } := by
  by_cases hi : s.i = 255
  · rw [nextEntry_last hi]
    exact ⟨fun _ => ⟨rfl, hi⟩, absurd hi, rfl⟩
  · rw [nextEntry_more hi]
    exact ⟨(absurd · hi), fun _ => ⟨rfl, toNat_add_one_of_ne_255 hi⟩, rfl⟩

/-- The code of STORE is the phase alone: either width selects it (R67). -/
theorem decode_of_mod_eq_three (c : UseqCode) (h : c.toNat % 8 = 3) : decode (.useq c) = .instr .store := by
  revert c
  decide

theorem entryOf_w8 (r : Word16) : entryOf .w8 r = .w8 (BitVec.ofNat 8 (r.toNat % 256)) := by
  rw [entryOf, Entry.w8.injEq, ← BitVec.toNat_inj, toNat_low8, BitVec.toNat_ofNat]
  exact (Nat.mod_mod _ _).symm

/-- Settles O23: a write is read back and changes no other entry, and `nextEntry` ends the step. -/
theorem storeResult : Obligations.StoreResult := by
  refine ⟨decode_of_mod_eq_three, fun s => ?_⟩
  obtain ⟨hlast, hmore, hframe⟩ :=
    nextEntry_effect { s with table := Memory.write s.table s.i.toNat (entryOf s.wsel s.r) }
  refine ⟨_, rfl, fun hw => ?_, fun hw => ?_, fun j hj => ?_, hlast, hmore, ?_⟩ <;> rw [nextEntry_table]
  · rw [Memory.read_write_same, hw, entryOf_w8]
  · rw [Memory.read_write_same, hw, entryOf]
  · exact Memory.read_write_other _ _ _ _ hj
  · exact hframe

/-- Settles O34: of the moves from another phase only the last STORE goes to DONE. -/
theorem onlyTheLastStoreReachesDone : Obligations.OnlyTheLastStoreReachesDone := by
  intro s t hstep hnotDone hdone
  cases step_move hstep with
  | store _ hp =>
    obtain ⟨hlast, hmore, -⟩ :=
      nextEntry_effect { dropTurn s with table := Memory.write s.table s.i.toNat (entryOf s.wsel s.r) }
    by_cases hi : s.i = 255
    · refine ⟨hp, hi, (hlast hi).2, ?_⟩
      rw [nextEntry_table, hi]
      exact Memory.read_write_same _ _ _
    · exact absurd (hdone.symm.trans (hmore hi).1) (by decide)
  | div8 _ hp | div16 _ hp => simp [countRound_phase, ite_eq_iff, hp] at hdone
  | wait | poll | rdtab => exact absurd hdone hnotDone
  | seed8 | seed16 | start | reset => cases hdone

end Sys2Proof.Machine
end

section
/-! The generic routine (`spec/43_store_and_sequencing.md` R126): the procedures of the two widths iterate the plain
and the shadow round, the XOR of the two registers takes the one to the other (`spec/44_table_laws.md` R141), and the seed
is shifted out after eight rounds. -/

namespace Sys2Proof.Machine

theorem plainRounds_eq_iterate (w p k r : Nat) : plainRounds w p k r = (plainRound w p)^[k] r := by
  induction k generalizing r with
  | zero => rfl
  | succ k ih => exact ih _

theorem shadowRounds_eq_iterate (w p k : Nat) (x : Nat × Nat) : shadowRounds w p k x = (shadowRound w p)^[k] x := by
  induction k generalizing x with
  | zero => rfl
  | succ k ih => exact ih _

/-- The width-8 procedure runs the plain round of width 8 (R81). -/
theorem iter8_eq_plainRounds (p i k : Nat) : iter8 p i k = plainRounds 8 p k i := by
  rw [plainRounds_eq_iterate]
  induction k with
  | zero => rfl
  | succ k ih => rw [Function.iterate_succ_apply', ← ih]; rfl

/-- The width-16 procedure runs the shadow round of width 16 from the index in the high byte (R82). -/
theorem iter16_eq_shadowRounds (p i k : Nat) : iter16 p i k = shadowRounds 16 p k (0, i * 2 ^ 8) := by
  rw [shadowRounds_eq_iterate]
  induction k with
  | zero => rfl
  | succ k ih => rw [Function.iterate_succ_apply', ← ih]; rfl

/-- The two registers of a shadow round, XORed. -/
def xorPair (x : Nat × Nat) : Nat := x.1 ^^^ x.2

/-- Doubling within a width is linear over XOR. -/
theorem double_xor_mod (w a b : Nat) : 2 * (a ^^^ b) % 2 ^ w = 2 * a % 2 ^ w ^^^ 2 * b % 2 ^ w := by
  rw [← Nat.xor_mod_two_pow]
  have hdouble := Nat.shiftLeft_xor_distrib (a := a) (b := b) (i := 1)
  simp only [Nat.shiftLeft_eq, pow_one, Nat.mul_comm _ 2] at hdouble
  rw [hdouble]

/-- `r XOR b` obeys the plain round (R141). -/
theorem xorPair_shadowRound (w p : Nat) :
    Function.Semiconj xorPair (shadowRound w p) (plainRound w p) := by
  rintro ⟨r, b⟩
  simp only [xorPair, shadowRound, plainRound, double_xor_mod]
  split
  · rw [Nat.xor_right_comm]
  · rfl

theorem xorPair_shadowRounds (w p k : Nat) (x : Nat × Nat) :
    xorPair (shadowRounds w p k x) = plainRounds w p k (xorPair x) := by
  rw [shadowRounds_eq_iterate, plainRounds_eq_iterate]
  exact (xorPair_shadowRound w p).iterate_right k x

/-- The shadow register is only shifted. -/
theorem snd_shadowRounds_succ (w p k r b : Nat) : (shadowRounds w p (k + 1) (r, b)).2 = b * 2 ^ (k + 1) % 2 ^ w := by
  induction k generalizing r b with
  | zero => simp [shadowRounds, shadowRound, Nat.mul_comm]
  | succ k ih =>
    calc (shadowRounds w p (k + 1 + 1) (r, b)).2 = 2 * b % 2 ^ w * 2 ^ (k + 1) % 2 ^ w := ih _ _
      _ = b * 2 ^ (k + 1 + 1) % 2 ^ w := by rw [Nat.mod_mul_mod]; ring_nf

/-- After eight rounds the byte in the most significant position is shifted out. -/
theorem snd_shadowRounds_seed {w : Nat} (hw : 8 ≤ w) (p r i : Nat) :
    (shadowRounds w p 8 (r, i * 2 ^ (w - 8))).2 = 0 := by
  rw [snd_shadowRounds_succ, Nat.mul_assoc, ← Nat.pow_add, Nat.sub_add_cancel hw]
  exact Nat.mul_mod_left i (2 ^ w)

/-- With the shadow register at zero the accumulator holds the plain form's value (R141). -/
theorem genericEntry_eq_plainRounds {w : Nat} (hw : 8 ≤ w) (p i : Nat) :
    genericEntry w p i = plainRounds w p 8 (i * 2 ^ (w - 8)) := by
  have hxor := xorPair_shadowRounds w p 8 (0, i * 2 ^ (w - 8))
  rwa [xorPair, xorPair, snd_shadowRounds_seed hw, Nat.xor_zero, Nat.zero_xor] at hxor

/-- Width 16 is the shadow form as it is, and width 8 the plain form that it agrees with (R126). -/
theorem tableEntry_eq_genericEntry (w : Width) (p i : Nat) : tableEntry w p i = genericEntry w.bits p i := by
  cases w with
  | w8 =>
    calc T8entry p i = plainRounds 8 p 8 i := iter8_eq_plainRounds p i 8
      _ = genericEntry 8 p i := by rw [genericEntry_eq_plainRounds (le_refl 8), Nat.sub_self, Nat.pow_zero, Nat.mul_one]
  | w16 => exact congrArg Prod.fst (iter16_eq_shadowRounds p i 8)

/-- Settles O50: both list an entry for each index, and the entries agree. -/
theorem genericRoutineBuildsTheSameTables : Obligations.GenericRoutineBuildsTheSameTables := by
  intro w polynomial
  rw [generate_bits, funext (tableEntry_eq_genericEntry w (truncW w polynomial))]
  rfl

end Sys2Proof.Machine
end

section
/-! The plain round as a linear map (`spec/44_table_laws.md` R131, R140). An entry is eight plain rounds of the index in
the most significant byte (R141), so every law of the table is read off it. -/

namespace Sys2Proof.Machine

theorem getLsbD_zero_shl {w : Nat} (a : BitVec w) : (shl a).getLsbD 0 = false := by
  simp [shl]

theorem getLsbD_succ_shl {w : Nat} (a : BitVec w) {n : Nat} (hn : n + 1 < w) :
    (shl a).getLsbD (n + 1) = a.getLsbD n := by
  rw [shl, BitVec.getLsbD_shiftLeft]
  simp [hn]

/-- Settles O24: the shift of R131 as a number and bit by bit, at either width. -/
theorem shiftDropsTheTopBit : Obligations.ShiftDropsTheTopBit :=
  ⟨fun a => ⟨toNat_shl a, getLsbD_zero_shl a, fun _ => getLsbD_succ_shl a⟩,
    fun a => ⟨toNat_shl a, getLsbD_zero_shl a, fun _ => getLsbD_succ_shl a⟩⟩

/-- A round shifts, and XORs the polynomial in where the top bit was set. -/
theorem plainRound_eq_xor (w p r : Nat) :
    plainRound w p r = 2 * r % 2 ^ w ^^^ if r.testBit (w - 1) then p else 0 := by
  unfold plainRound
  split <;> simp

/-- The shift is linear, and the carry of an XOR is the XOR of the carries. -/
theorem plainRound_xor (w p a b : Nat) : plainRound w p (a ^^^ b) = plainRound w p a ^^^ plainRound w p b := by
  have hcarry : ∀ c d : Bool, (if (c ^^ d) = true then p else 0) = (if c then p else 0) ^^^ if d then p else 0 := by
    intro c d
    cases c <;> cases d <;> simp
  simp only [plainRound_eq_xor, double_xor_mod, Nat.testBit_xor, hcarry]
  ac_rfl

theorem plainRounds_xor (w p k a b : Nat) :
    plainRounds w p k (a ^^^ b) = plainRounds w p k a ^^^ plainRounds w p k b := by
  induction k generalizing a b with
  | zero => rfl
  | succ k ih => exact (congrArg (plainRounds w p k) (plainRound_xor w p a b)).trans (ih _ _)

theorem plainRounds_zero (w p k : Nat) : plainRounds w p k 0 = 0 := by
  have h := plainRounds_xor w p k 0 0
  rwa [Nat.xor_self, Nat.xor_self] at h

/-- `k + 1` rounds are `k` rounds and then one. -/
theorem plainRounds_succ (w p k r : Nat) : plainRounds w p (k + 1) r = plainRound w p (plainRounds w p k r) := by
  rw [plainRounds_eq_iterate, plainRounds_eq_iterate, Function.iterate_succ_apply']

/-- Without a carry a round only doubles. -/
theorem plainRound_of_lt {w r : Nat} (p : Nat) (h : 2 * r < 2 ^ w) : plainRound w p r = 2 * r := by
  have hr : r < 2 ^ (w - 1) := by
    cases w with
    | zero => omega
    | succ n =>
      rw [Nat.pow_succ] at h
      exact Nat.lt_of_mul_lt_mul_left (Nat.mul_comm _ 2 ▸ h)
  rw [plainRound_eq_xor, Nat.testBit_lt_two_pow hr, Nat.mod_eq_of_lt h]
  exact Nat.xor_zero _

/-- As long as no bit reaches the top, rounds only shift. -/
theorem plainRounds_of_lt {w k r : Nat} (p : Nat) (h : r * 2 ^ k < 2 ^ w) : plainRounds w p k r = r * 2 ^ k := by
  induction k with
  | zero => exact (Nat.mul_one r).symm
  | succ k ih =>
    have hdouble : 2 * (r * 2 ^ k) = r * 2 ^ (k + 1) := by ring
    rw [plainRounds_succ, ih (by omega), plainRound_of_lt p (hdouble ▸ h), hdouble]

/-- The top bit alone is shifted out and leaves the polynomial. -/
theorem plainRound_topBit {w : Nat} (hw : 0 < w) (p : Nat) : plainRound w p (2 ^ (w - 1)) = p := by
  rw [plainRound_eq_xor, Nat.testBit_two_pow_self, if_pos rfl, Nat.mul_comm, Nat.two_pow_pred_mul_two hw, Nat.mod_self,
    Nat.zero_xor]

end Sys2Proof.Machine
end

section
/-! The shadow form and the plain form (`spec/44_table_laws.md` R141), and what follows for the entries: linearity
(R140), entries 0 and 1 and the doubling (R137, R139), the zero polynomial (R146) and distinct polynomials (R145). -/

namespace Sys2Proof.Machine

theorem Width.eight_le_bits (w : Width) : 8 ≤ w.bits := by
  cases w <;> decide

/-- Either procedure is the plain form from the index in the most significant byte (R81, R141 (a)). -/
theorem tableEntry_eq_plainRounds (w : Width) (p i : Nat) :
    tableEntry w p i = plainRounds w.bits p 8 (i * 2 ^ (w.bits - 8)) := by
  rw [tableEntry_eq_genericEntry, genericEntry_eq_plainRounds w.eight_le_bits]

/-- The shadow form of a byte in the most significant position ends with the plain form in `r` and zero in `b`. -/
theorem shadowRounds_seed {w : Nat} (hw : 8 ≤ w) (p i : Nat) :
    shadowRounds w p 8 (0, i * 2 ^ (w - 8)) = (plainRounds w p 8 (i * 2 ^ (w - 8)), 0) :=
  Prod.ext (genericEntry_eq_plainRounds hw p i) (snd_shadowRounds_seed hw p 0 i)

/-- Settles O49: the round law, the seed's eight rounds, and the two procedures as instances of the other form. -/
theorem shadowFormEqualsPlainForm : Obligations.ShadowFormEqualsPlainForm := by
  refine ⟨fun w p r b _ _ _ _ => xorPair_shadowRound w p (r, b), fun w p s hw _ _ hlow => ?_,
    fun p i _ _ => tableEntry_eq_plainRounds .w16 p i, fun p i _ _ => ?_⟩
  · obtain ⟨i, rfl⟩ := Nat.dvd_of_mod_eq_zero hlow
    rw [Nat.mul_comm]
    exact shadowRounds_seed hw p i
  · have hgeneric : T8entry p i = genericEntry 8 p i := tableEntry_eq_genericEntry .w8 p i
    rw [hgeneric, genericEntry, Nat.sub_self, Nat.pow_zero, Nat.mul_one]

/-- The table is linear in the index, whatever the polynomial (R140). -/
theorem tableEntry_xor (w : Width) (p i j : Nat) :
    tableEntry w p (i ^^^ j) = tableEntry w p i ^^^ tableEntry w p j := by
  have hshift : (i ^^^ j) * 2 ^ (w.bits - 8) = i * 2 ^ (w.bits - 8) ^^^ j * 2 ^ (w.bits - 8) := by
    simpa only [Nat.shiftLeft_eq] using Nat.shiftLeft_xor_distrib (a := i) (b := j) (i := w.bits - 8)
  simp only [tableEntry_eq_plainRounds, hshift, plainRounds_xor]

/-- Settles O48: the entry is a linear function of the index. -/
theorem tableIsLinear : Obligations.TableIsLinear :=
  fun w p i j _ _ _ => tableEntry_xor w p i j

theorem tableEntry_zero (w : Width) (p : Nat) : tableEntry w p 0 = 0 := by
  rw [tableEntry_eq_plainRounds, Nat.zero_mul, plainRounds_zero]

/-- Settles O46: zero stays zero under plain rounds. -/
theorem entryZeroIsZero : Obligations.EntryZeroIsZero :=
  fun p => ⟨tableEntry_zero .w8 p, tableEntry_zero .w16 p⟩

/-- Seven rounds bring the bit of index 1 to the top, and the eighth leaves the polynomial (R139). -/
theorem tableEntry_one (w : Width) (p : Nat) : tableEntry w p 1 = p := by
  have hbits := w.eight_le_bits
  have htop : 1 * 2 ^ (w.bits - 8) * 2 ^ 7 = 2 ^ (w.bits - 1) := by
    rw [Nat.one_mul, ← Nat.pow_add]
    congr 1
    omega
  have hlt : 1 * 2 ^ (w.bits - 8) * 2 ^ 7 < 2 ^ w.bits := htop ▸ Nat.pow_lt_pow_right Nat.one_lt_two (by omega)
  rw [tableEntry_eq_plainRounds, plainRounds_succ, plainRounds_of_lt p hlt, htop, plainRound_topBit (by omega)]

/-- The entry of a doubled index is one round more of the entry (R139). -/
theorem tableEntry_double {i : Nat} (w : Width) (p : Nat) (hi : 2 * i < 256) :
    tableEntry w p (2 * i) = plainRound w.bits p (tableEntry w p i) := by
  have hlt : 2 * (i * 2 ^ (w.bits - 8)) < 2 ^ w.bits :=
    calc 2 * (i * 2 ^ (w.bits - 8)) = 2 * i * 2 ^ (w.bits - 8) := (Nat.mul_assoc ..).symm
      _ < 2 ^ 8 * 2 ^ (w.bits - 8) := Nat.mul_lt_mul_of_pos_right hi (Nat.two_pow_pos _)
      _ = 2 ^ w.bits := by rw [← Nat.pow_add, Nat.add_sub_cancel' w.eight_le_bits]
  rw [tableEntry_eq_plainRounds, tableEntry_eq_plainRounds, ← plainRounds_succ, Nat.mul_assoc,
    ← plainRound_of_lt p hlt]
  rfl

/-- Settles O47: entry 1 is the last round's polynomial, and an index below 128 doubles with a round. -/
theorem entryOneIsThePolynomial : Obligations.EntryOneIsThePolynomial := by
  refine fun w p _ => ⟨tableEntry_one w p, fun k hk => ?_⟩
  have hlt : 2 * 2 ^ k < 256 := by
    rw [← Nat.pow_succ']
    exact Nat.pow_lt_pow_right Nat.one_lt_two (Nat.succ_lt_succ hk)
  rw [Nat.pow_succ', tableEntry_double w p hlt, plainRound_eq_xor]

/-- Settles O52: the tables differ at entry 1, which is the polynomial. -/
theorem distinctPolynomialsDistinctTables : Obligations.DistinctPolynomialsDistinctTables := by
  intro w p q _ _ _ _ hne
  exact ⟨1, by decide, by decide, by rwa [tableEntry_one, tableEntry_one]⟩

/-- The plain round with no polynomial is what a shadow round does to `b`. -/
theorem snd_shadowRound (w p : Nat) : Function.Semiconj Prod.snd (shadowRound w p) (plainRound w 0) := by
  rintro ⟨r, b⟩
  simp [shadowRound, plainRound]

/-- Without a polynomial nothing is XORed in, and the index is shifted out (R146). -/
theorem tableEntry_zeroPolynomial (w : Width) (i : Nat) : tableEntry w 0 i = 0 := by
  have hsnd := (snd_shadowRound w.bits 0).iterate_right 8 (0, i * 2 ^ (w.bits - 8))
  rw [← shadowRounds_eq_iterate, ← plainRounds_eq_iterate, snd_shadowRounds_seed w.eight_le_bits] at hsnd
  rw [tableEntry_eq_plainRounds, ← hsnd]

/-- Settles O53: eight shifts empty the register. -/
theorem zeroPolynomialZeroTable : Obligations.ZeroPolynomialZeroTable :=
  fun i _ => ⟨tableEntry_zeroPolynomial .w8 i, tableEntry_zeroPolynomial .w16 i⟩

end Sys2Proof.Machine
end

section
/-! The host's CRC loops (`spec/44_table_laws.md` R142 to R144): one byte of the table-driven loop is one byte of
bit-serial division, because the rounds are linear and a register's low byte is only shifted. -/

namespace Sys2Proof.Machine

/-- A lookup in the finished table. -/
theorem getD_map_range {f : Nat → Nat} {j : Nat} (hj : j < 256) : ((List.range 256).map f).getD j 0 = f j := by
  rw [List.getD_eq_getElem?_getD, getElem?_map_range hj, Option.getD_some]

theorem xor_byte_lt {a b : Nat} (ha : a < 256) (hb : b < 256) : a ^^^ b < 256 :=
  Nat.xor_lt_two_pow (n := 8) ha hb

/-- Width 8: the loop looks up the eight rounds that division does (R144). -/
theorem crcTable8_eq_crcSerial8 {p : Nat} (hp : p < 2 ^ 8) {msg : List Nat} (hmsg : ∀ m ∈ msg, m < 256) {reg : Nat}
    (hreg : reg < 2 ^ 8) : crcTable8 (T8 p) reg msg = crcSerial8 p reg msg := by
  induction msg generalizing reg with
  | nil => rfl
  | cons m ms ih =>
    obtain ⟨hm, hms⟩ := List.forall_mem_cons.mp hmsg
    have hidx : reg ^^^ m < 256 := xor_byte_lt hreg hm
    have hentry : T8entry p (reg ^^^ m) = plainRounds 8 p 8 (reg ^^^ m) := iter8_eq_plainRounds p _ 8
    have hlt : T8entry p (reg ^^^ m) < 2 ^ 8 := tableEntry_lt (w := .w8) hp hidx
    simp only [crcTable8, crcSerial8, T8, getD_map_range hidx, ← hentry]
    exact ih hms hlt

/-- Width 16, one byte: the register's high byte and the message's go through the table, its low byte is shifted. -/
theorem plainRounds_word (p reg m : Nat) :
    plainRounds 16 p 8 (reg ^^^ m * 2 ^ 8) = T16entry p (reg / 2 ^ 8 ^^^ m) ^^^ reg * 2 ^ 8 % 2 ^ 16 := by
  have hhigh : T16entry p (reg / 2 ^ 8 ^^^ m) = plainRounds 16 p 8 ((reg / 2 ^ 8 ^^^ m) * 2 ^ 8) :=
    tableEntry_eq_plainRounds .w16 p _
  have hlow : plainRounds 16 p 8 (reg % 2 ^ 8) = reg * 2 ^ 8 % 2 ^ 16 := by
    rw [plainRounds_of_lt p (by omega)]
    omega
  have hsplit : reg ^^^ m * 2 ^ 8 = (reg / 2 ^ 8 ^^^ m) * 2 ^ 8 ^^^ reg % 2 ^ 8 := by
    apply Nat.eq_of_testBit_eq
    intro n
    simp only [Nat.testBit_xor, Nat.testBit_mul_two_pow, Nat.testBit_mod_two_pow, Nat.testBit_div_two_pow]
    by_cases hn : n < 8
    · simp [hn, Nat.not_le.mpr hn]
    · simp [hn, Nat.le_of_not_lt hn, Nat.sub_add_cancel (Nat.le_of_not_lt hn)]
  rw [hsplit, plainRounds_xor, hhigh, hlow]

/-- Width 16: the loop computes what division does, a byte at a time (R144). -/
theorem crcTable16_eq_crcSerial16 {p : Nat} (hp : p < 2 ^ 16) {msg : List Nat} (hmsg : ∀ m ∈ msg, m < 256)
    {reg : Nat} (hreg : reg < 2 ^ 16) : crcTable16 (T16 p) reg msg = crcSerial16 p reg msg := by
  induction msg generalizing reg with
  | nil => rfl
  | cons m ms ih =>
    obtain ⟨hm, hms⟩ := List.forall_mem_cons.mp hmsg
    have hidx : reg / 2 ^ 8 ^^^ m < 256 := xor_byte_lt (by omega) hm
    have hlt : T16entry p (reg / 2 ^ 8 ^^^ m) ^^^ reg * 2 ^ 8 % 2 ^ 16 < 2 ^ 16 :=
      Nat.xor_lt_two_pow (tableEntry_lt (w := .w16) hp hidx) (Nat.mod_lt _ (by decide))
    simp only [crcTable16, crcSerial16, T16, getD_map_range hidx, plainRounds_word]
    exact ih hms hlt

/-- Settles O51: by induction on the message, byte by byte. -/
theorem tableDrivenCrcEqualsBitSerial : Obligations.TableDrivenCrcEqualsBitSerial :=
  ⟨fun _ _ _ hp hinit hmsg => crcTable8_eq_crcSerial8 hp hmsg hinit,
    fun _ _ _ hp hinit hmsg => crcTable16_eq_crcSerial16 hp hmsg hinit⟩

/-- Settles O54: each of the four entries evaluated. -/
theorem knownVectorWidth8 : Obligations.KnownVectorWidth8 := by
  refine ⟨_, generate_bits .w8 0x9B, ?_, ?_, ?_, ?_⟩ <;> rw [getElem?_map_range (by decide)] <;> decide

/-- Settles O55: entry 0 is 0, and the loop over the table is bit-serial division, evaluated. -/
theorem checkValuesWidth16 : Obligations.CheckValuesWidth16 := by
  refine ⟨T16 0x1021, rfl, ?_, ?_, ?_⟩
  · rw [T16, getElem?_map_range (by decide)]
    exact congrArg some (tableEntry_zero .w16 _)
  · rw [crcTable16_eq_crcSerial16 (by decide) (by decide) (by decide)]
    decide +kernel
  · rw [crcTable16_eq_crcSerial16 (by decide) (by decide) (by decide)]
    decide +kernel

end Sys2Proof.Machine
end

section
/-! The counters over one step (`spec/44_table_laws.md` R134): what a move other than a RESET does to each, by the phase
that it is made in. -/

namespace Sys2Proof.Machine

/-- A round in DIV counts `K` there, or is the eighth, which clears it and goes to STORE. -/
theorem countRound_of_div {s : State} (hp : s.phase = .div) :
    (countRound s).phase = .div ∧ ((countRound s).k = s.k ∨ (countRound s).k.toNat = s.k.toNat + 1) ∨
      s.k = 7 ∧ (countRound s).k = 0 ∧ (countRound s).phase = .store := by
  obtain ⟨hlast, hmore, -⟩ := countRound_effect s
  by_cases hk : s.k = 7
  · exact .inr ⟨hk, hlast hk⟩
  · obtain ⟨hcount, hphase⟩ := hmore hk
    exact .inl ⟨hphase.trans hp, .inr hcount⟩

/-- In DIV the sequencer's move is a round, and a host action leaves `K`. -/
theorem Move.k_of_div {s t : State} (hmove : Move s t) (hnoReset : ∀ x ∈ s.turns.head?, x.isReset = false)
    (hp : s.phase = .div) :
    t.phase = .div ∧ (t.k = s.k ∨ t.k.toNat = s.k.toNat + 1) ∨ s.k = 7 ∧ t.k = 0 ∧ t.phase = .store := by
  cases hmove with
  | div8 => exact countRound_of_div (s := { dropTurn s with r := _ }) hp
  | div16 => exact countRound_of_div (s := { dropTurn s with r := _, b := _ }) hp
  | poll => exact .inl ⟨hp, .inl rfl⟩
  | reset x hturn hx => simp [hnoReset x hturn] at hx
  | start _ _ _ hb => simp [hp, Phase.busy] at hb
  | wait _ hp' | seed8 _ hp' | seed16 _ hp' | store _ hp' | rdtab _ _ _ hp' => simp [hp] at hp'

/-- In another phase it is only cleared, by SEED and by an accepted START. -/
theorem Move.k_of_ne_div {s t : State} (hmove : Move s t) (hnoReset : ∀ x ∈ s.turns.head?, x.isReset = false)
    (hp : s.phase ≠ .div) : t.k = s.k ∨ t.k = 0 := by
  cases hmove with
  | div8 _ hp' | div16 _ hp' => exact absurd hp' hp
  | seed8 | seed16 | start => exact .inr rfl
  | wait | poll | rdtab => exact .inl rfl
  | store => exact .inl (nextEntry_k _)
  | reset x hturn hx => simp [hnoReset x hturn] at hx

/-- STORE counts `I` or leaves it at 255, and only an accepted START clears it, which is not while BUSY. -/
theorem Move.i_cases {s t : State} (hmove : Move s t) (hnoReset : ∀ x ∈ s.turns.head?, x.isReset = false) :
    (t.i = s.i ∨ t.i.toNat = s.i.toNat + 1) ∨ s.phase.busy = false ∧ t.i = 0 := by
  cases hmove with
  | store =>
    obtain ⟨hlast, hmore, -⟩ :=
      nextEntry_effect { dropTurn s with table := Memory.write s.table s.i.toNat (entryOf s.wsel s.r) }
    by_cases hi : s.i = 255
    · exact .inl (.inl ((hlast hi).2.trans hi.symm))
    · exact .inl (.inr (hmore hi).2)
  | start _ _ _ hb => exact .inr ⟨hb, rfl⟩
  | reset x hturn hx => simp [hnoReset x hturn] at hx
  | wait | seed8 | seed16 | div8 | div16 | poll | rdtab => exact .inl (.inl (by simp))

/-- Settles O30: no move but a RESET takes a counter past its end. -/
theorem countersNeverWrap : Obligations.CountersNeverWrap := by
  intro s t hstep hnoReset
  have hmove := step_move hstep
  have hdiv := hmove.k_of_div hnoReset
  have hother := hmove.k_of_ne_div hnoReset
  have hindex := hmove.i_cases hnoReset
  refine ⟨?_, ?_, hdiv, hother, fun hb => ?_⟩
  · by_cases hp : s.phase = .div
    · rcases hdiv hp with ⟨-, hkeep | hcount⟩ | ⟨-, hclear, -⟩
      · exact .inl hkeep
      · exact .inr (.inr hcount)
      · exact .inr (.inl hclear)
    · exact (hother hp).imp_right .inl
  · rcases hindex with (hkeep | hcount) | ⟨-, hclear⟩
    · exact .inl hkeep
    · exact .inr (.inr hcount)
    · exact .inr (.inl hclear)
  · exact hindex.resolve_right fun ⟨hnotBusy, _⟩ => by simp [hb] at hnotBusy

end Sys2Proof.Machine
end

section
/-! The table is a function of the command (`spec/44_table_laws.md` R135): a run left to the sequencer ends with the
contract's table of the latched width and polynomial, and a table is the data of its entries. -/

namespace Sys2Proof.Machine

theorem Entry.ext_toNat {e f : Entry} (hwidth : e.width = f.width) (hvalue : e.toNat = f.toNat) : e = f := by
  cases e <;> cases f
  · exact congrArg Entry.w8 (BitVec.eq_of_toNat_eq hvalue)
  · cases hwidth
  · cases hwidth
  · exact congrArg Entry.w16 (BitVec.eq_of_toNat_eq hvalue)

/-- A canonical memory lists no index beyond the address space (R40). -/
theorem Memory.read_of_wf {m : Memory} (hm : Memory.wf m) {j : Nat} (hj : 256 ≤ j) : Memory.read m j = none := by
  obtain ⟨-, hbound⟩ := hm
  induction m with
  | nil => rfl
  | cons c m ih =>
    obtain ⟨i, e⟩ := c
    have hi : i < 256 := hbound (i, e) (.head _)
    rw [Memory.read_cons, if_neg (by omega)]
    exact ih fun d hd => hbound d (.tail _ hd)

/-- Width, polynomial and number of entries leave one table. -/
theorem TableUpTo.unique {w : Width} {p n : Nat} {m m' : Memory} (h : TableUpTo w p m n) (h' : TableUpTo w p m' n) :
    m = m' := by
  refine Memory.ext_read m m' h.wf h'.wf fun j => ?_
  by_cases hj : j < 256
  · by_cases hn : j < n
    · obtain ⟨e, he, hvalue⟩ := h.written j hj hn
      obtain ⟨f, hf, hvalue'⟩ := h'.written j hj hn
      rw [he, hf, Entry.ext_toNat ((h.width j e he).trans (h'.width j f hf).symm) (hvalue.trans hvalue'.symm)]
    · rw [h.unwritten j hj (Nat.le_of_not_lt hn), h'.unwritten j hj (Nat.le_of_not_lt hn)]
  · rw [Memory.read_of_wf h.wf (Nat.le_of_not_lt hj), Memory.read_of_wf h'.wf (Nat.le_of_not_lt hj)]

/-- With nothing scheduled the run does its remaining micro-steps (log 4). -/
theorem Pending.run_unscheduled {w : Width} {p : Word16} {n : Nat} {s : State} (h : Pending w p n s)
    (hturns : s.turns = []) : ∃ t, run n s = .next t ∧ Pending w p 0 t := by
  induction n generalizing s with
  | zero => exact ⟨s, rfl, h⟩
  | succ n ih =>
    have hnil : { s with turns := [] } = s := by rw [← hturns]
    obtain ⟨u, hseq, hu, huturns⟩ := (h.withHost [.seq] s.replies).of_seqTurn rfl
    have hstep : step s = .next u := by rw [step_nil hturns, ← hseq, step_seq rfl, hnil]
    obtain ⟨t, hrun, ht⟩ := ih hu huturns
    exact ⟨t, (run_succ_next hstep).trans hrun, ht⟩

/-- The whole table of a run that needs no more micro-steps. -/
theorem Pending.wholeTable {w : Width} {p : Word16} {s : State} (h : Pending w p 0 s) :
    TableUpTo w p.toNat s.table 256 := by
  have hall : writtenBelow s = 256 := by simp only [writtenBelow, h.finished.phase]
  have htable := h.invariant.table
  rwa [h.wsel, h.poly, hall] at htable

/-- A START of a legal width as the only scheduled turn, and 2560 micro-steps: DONE with the contract's table of the
polynomial truncated to the width (R127). -/
theorem run_start {s : State} {w : Width} {cmd : CmdWord} (hb : s.phase.busy = false)
    (hturns : s.turns = [.host (.start cmd)]) (hbits : cmd.toNat / 2 ^ 32 = w.bits) :
    ∃ t, run 2561 s = .next t ∧ t.phase = .done ∧ TableUpTo w (cmd.toNat % 2 ^ w.bits) t.table 256 := by
  obtain ⟨u, hstart, hu, huturns⟩ := pending_of_start hb hbits hturns
  obtain ⟨t, hrun, ht⟩ := hu.run_unscheduled huturns
  have htrunc : (polyOperand w (cmd.toNat % 2 ^ 32)).toNat = cmd.toNat % 2 ^ w.bits := by
    rw [toNat_polyOperand, truncW]
    exact Nat.mod_mod_of_dvd _ (Nat.pow_dvd_pow 2 (by cases w <;> decide))
  exact ⟨t, (run_succ_next hstart).trans hrun, ht.finished.phase, htrunc ▸ ht.wholeTable⟩

/-- Settles O41: both runs end with the one table of their width and truncated polynomial. -/
theorem sameCommandSameTable : Obligations.SameCommandSameTable := by
  intro s t w c d hs ht hsturns htturns hc hd hpoly
  obtain ⟨s', hrun, hdone, htable⟩ := run_start hs hsturns hc
  obtain ⟨t', hrun', hdone', htable'⟩ := run_start ht htturns hd
  rw [hpoly] at htable
  exact ⟨s', t', hrun, hrun', hdone, hdone', htable.unique htable'⟩

end Sys2Proof.Machine
end

section
/-! How a step stops (`spec/60_exceptions.md` R150, R156, R163): the sequencer goes on, as do RESET and POLL, so a refusal
is of a START or of an RDTAB, and a fault is of an RDTAB. -/

namespace Sys2Proof.Machine

/-- Settles O9: the turn runs RESET and never looks at the other action. -/
theorem resetBeatsAnotherAction : Obligations.ResetBeatsAnotherAction := by
  intro s q ts hturns
  calc step s = hostTurn .reset { s with turns := ts } := (step_resetWith hturns).trans (hostTurn_reset _).symm
    _ = exec .reset { s with turns := ts } := hostTurn_of_decode_instr rfl _

/-- A step that does not go on is a host action's. -/
theorem exists_host_of_step_ne_next {s : State} (h : ∀ t, step s ≠ .next t) :
    ∃ q ts, s.turns = .host q :: ts ∧ step s = hostTurn q { s with turns := ts } := by
  rcases step_turn s with ⟨ts, -, heq⟩ | hhost | ⟨q, ts, -, heq⟩
  · obtain ⟨t, ht⟩ := sequencerTurn_next { s with turns := ts }
    exact absurd (heq.trans ht) (h t)
  · exact hhost
  · exact absurd heq (h _)

/-- A START is refused for BUSY, or else for its width (R85). -/
theorem hostTurn_start_eq_refused {cmd : CmdWord} {s : State} {r : Refusal} (h : hostTurn (.start cmd) s = .refused r) :
    s.phase.busy = true ∧ r = .busy ∨
      s.phase.busy = false ∧ r = .illegalWidth ∧ widthField cmd ≠ 8 ∧ widthField cmd ≠ 16 := by
  cases hb : s.phase.busy with
  | true =>
    rw [hostTurn_start_of_busy cmd hb] at h
    cases h
    exact .inl ⟨rfl, rfl⟩
  | false =>
    rw [hostTurn_start, startRun_of_not_busy _ _ hb, startRun_of_not_busy _ _ hb, refuseStart_of_not_busy hb] at h
    split at h
    · cases h
    · split at h
      · cases h
      · cases h
        exact .inr ⟨rfl, rfl, ‹_›, ‹_›⟩

/-- RDTAB is refused outside DONE and for no other reason (R86). -/
theorem execRdtab_eq_refused {idx : Byte} {s : State} {r : Refusal} (h : execRdtab idx s = .refused r) :
    s.phase ≠ .done ∧ r = .tableNotReady := by
  rcases execRdtab_cases idx s with ⟨e, -, -, heq⟩ | ⟨-, -, heq⟩ | ⟨hp, heq⟩ <;> rw [heq] at h <;> cases h
  exact ⟨hp, rfl⟩

/-- Settles O11: a refused step is a host action's, and of the four actions only START and RDTAB can be refused. -/
theorem refusalsHaveTheirReasons : Obligations.RefusalsHaveTheirReasons := by
  intro s r hstep
  obtain ⟨q, ts, hturns, heq⟩ := exists_host_of_step_ne_next (s := s) (by simp [hstep])
  rw [heq] at hstep
  cases q with
  | reset | poll => cases hstep
  | start cmd => exact .inl ⟨cmd, ts, hturns, hostTurn_start_eq_refused (s := { s with turns := ts }) hstep⟩
  | rdtab idx => exact .inr ⟨idx, ts, hturns, execRdtab_eq_refused (s := { s with turns := ts }) hstep⟩

/-- A START never faults: it is accepted or refused (R85). -/
theorem hostTurn_start_ne_fault (cmd : CmdWord) (s : State) (f : Fault) : hostTurn (.start cmd) s ≠ .fault f := by
  rw [hostTurn_start]
  split
  · exact startRun_ne_fault
  · split
    · exact startRun_ne_fault
    · rcases refuseStart_cases s with ⟨-, heq⟩ | ⟨-, heq⟩ <;> simp [heq]

/-- An RDTAB that faults reads an unwritten entry in DONE (R44, U7). -/
theorem execRdtab_eq_fault {idx : Byte} {s : State} {f : Fault} (h : execRdtab idx s = .fault f) :
    s.phase = .done ∧ Memory.read s.table idx.toNat = none := by
  rcases execRdtab_cases idx s with ⟨e, -, -, heq⟩ | ⟨hp, hread, heq⟩ | ⟨-, heq⟩ <;> rw [heq] at h <;> cases h
  exact ⟨hp, hread⟩

/-- A step that faults finds an unwritten entry in DONE. -/
theorem step_eq_fault {s : State} {f : Fault} (h : step s = .fault f) :
    s.phase = .done ∧ ∃ idx : Byte, Memory.read s.table idx.toNat = none := by
  obtain ⟨q, ts, -, heq⟩ := exists_host_of_step_ne_next (s := s) (by simp [h])
  rw [heq] at h
  cases q with
  | reset | poll => cases h
  | start cmd => exact absurd h (hostTurn_start_ne_fault cmd _ f)
  | rdtab idx =>
    obtain ⟨hp, hread⟩ := execRdtab_eq_fault h
    exact ⟨hp, idx, hread⟩

/-- In DONE every entry is written (R32 (d)). -/
theorem Invariants.read_ne_none_of_done {s : State} (h : Invariants s) (hp : s.phase = .done) (idx : Byte) :
    Memory.read s.table idx.toNat ≠ none := by
  have hall : writtenBelow s = 256 := by simp only [writtenBelow, hp]
  obtain ⟨e, he, -⟩ := h.tableUpTo.written idx.toNat idx.isLt (hall ▸ idx.isLt)
  simp [he]

theorem run_succ_fault {n : Nat} {s : State} {f : Fault} (h : step s = .fault f) : run (n + 1) s = .fault f := by
  simp only [run, h]

/-- A run that ends in a fault comes to a state whose step is that fault. -/
theorem exists_step_eq_fault_of_run {n : Nat} {s : State} {f : Fault} (h : run n s = .fault f) :
    ∃ m t, run m s = .next t ∧ step t = .fault f := by
  induction n generalizing s with
  | zero => cases h
  | succ n ih =>
    cases hstep : step s with
    | next u =>
      obtain ⟨m, t, hrun, hfault⟩ := ih ((run_succ_next hstep).symm.trans h)
      exact ⟨m + 1, t, (run_succ_next hstep).trans hrun, hfault⟩
    | fault g => exact ⟨0, s, rfl, hstep.trans ((run_succ_fault hstep).symm.trans h)⟩
    | refused r => simp [run, hstep] at h

/-- Settles O29: the fault would be at a reachable state in DONE with an unwritten entry, and there is none. -/
theorem noRunFaults : Obligations.NoRunFaults := by
  intro s n f hs hrun
  obtain ⟨m, t, hreach, hfault⟩ := exists_step_eq_fault_of_run hrun
  obtain ⟨hp, idx, hread⟩ := step_eq_fault hfault
  have hinv : Invariants t := reachableStatesHaveTheInvariants t ⟨s, m, hs, hreach⟩
  exact hinv.read_ne_none_of_done hp idx hread

end Sys2Proof.Machine
end

section
/-! RESET (`spec/70_reset_and_hazards.md` R170, R171). -/

namespace Sys2Proof.Machine

/-- Settles O12: RESET leaves IDLE and the unwritten table, and outside DONE an RDTAB is refused. -/
theorem resetLeavesIdleAndNoTable : Obligations.ResetLeavesIdleAndNoTable :=
  fun s => ⟨resetBlock s, rfl, rfl, rfl, Memory.read_unwritten,
    fun idx => execRdtab_of_ne_done (idx := idx) (by simp), rfl, rfl⟩

end Sys2Proof.Machine
end

section
/-! Turns that go through, and the lines of a program that have them (`spec/30_encoding.md` R72, R73): the host's
actions and RDALL. -/

namespace Sys2Proof.Machine

/-- The turns go through from `s` without a refusal, whatever is scheduled after them; then that is still to come, and
all else is as in `t`. -/
def GoesThrough (ts : List Turn) (s t : State) : Prop :=
  ∀ rest, run ts.length { s with turns := ts ++ rest } = .next { t with turns := rest }

variable {s t u : State} {ts us : List Turn}

theorem goesThrough_nil (s : State) : GoesThrough [] s s := fun _ => rfl

theorem GoesThrough.append (hst : GoesThrough ts s t) (htu : GoesThrough us t u) : GoesThrough (ts ++ us) s u := by
  intro rest
  rw [List.length_append, List.append_assoc, run_add _ (hst _), htu]

theorem goesThrough_host {q : Request}
    (h : ∀ rest, hostTurn q { s with turns := rest } = .next { t with turns := rest }) : GoesThrough [.host q] s t :=
  fun rest => run_succ_next ((step_host rfl).trans (h rest))

/-- A line whose turns go through: they, and then those of the rest of the program from where they lead. -/
theorem GoesThrough.programTurns_cons {l : Line} (h : GoesThrough ts s t) (hl : l.turns s = some ts)
    (hturns : t.turns = []) (ls : List Line) : programTurns (l :: ls) s = (programTurns ls t).map (ts ++ ·) := by
  have hnil : { t with turns := [] } = t := by rw [← hturns]
  have hrun : run ts.length { s with turns := ts } = .next t := by simpa only [List.append_nil, hnil] using h []
  exact Machine.programTurns_cons ls hl hrun

/-- A START outside BUSY, its width written in the command word as `GENERATE` does (R73, R83, R84). -/
theorem goesThrough_generate (w : Width) (p : BitVec 32) (hb : s.phase.busy = false) :
    GoesThrough [.host (.start (cmdWord (BitVec.ofNat 8 w.bits) p))] s (acceptStart w p.toNat s) := by
  refine goesThrough_host fun rest => ?_
  have hp := p.isLt
  have hword : (cmdWord (BitVec.ofNat 8 w.bits) p).toNat = w.bits * 2 ^ 32 + p.toNat := by
    rw [toNat_cmdWord]
    cases w <;> rfl
  have hbits : (cmdWord (BitVec.ofNat 8 w.bits) p).toNat / 2 ^ 32 = w.bits := by omega
  have hpoly : (cmdWord (BitVec.ofNat 8 w.bits) p).toNat % 2 ^ 32 = p.toNat := by omega
  rw [hostTurn_start_of_bits hbits, hpoly]
  exact startRun_of_not_busy w _ hb

/-- An RDTAB after a run gives the host the entry of the contract (R86). -/
theorem Finished.goesThrough_rdtab {w : Width} {p i : Nat} (h : Finished w p s) (hi : i < 256) :
    GoesThrough [.host (.rdtab (BitVec.ofNat 8 i))] s
      (returnToHost (.entry (BitVec.ofNat 16 (tableEntry w p i))) s) := by
  have hidx : (BitVec.ofNat 8 i).toNat = i := Nat.mod_eq_of_lt hi
  obtain ⟨e, he, hvalue⟩ := Option.map_eq_some_iff.mp (h.entries i hi)
  have hport : portValue e = BitVec.ofNat 16 (tableEntry w p i) := by
    rw [← hvalue, ← toNat_portValue, BitVec.ofNat_toNat, BitVec.setWidth_eq]
  rw [← hport]
  exact goesThrough_host fun rest =>
    execRdtab_of_written (s := { s with turns := rest }) h.phase (hidx.symm ▸ he)

/-- RDTABs after a run give the entries in the order in which the host asks for them. -/
theorem Finished.goesThrough_rdtabs {w : Width} {p : Nat} (h : Finished w p s) {is : List Nat}
    (his : ∀ i ∈ is, i < 256) :
    GoesThrough (is.map fun i => .host (.rdtab (BitVec.ofNat 8 i))) s
      { s with replies := (is.map fun i => .entry (BitVec.ofNat 16 (tableEntry w p i))).reverse ++ s.replies } := by
  induction is generalizing s with
  | nil => exact goesThrough_nil s
  | cons i is ih =>
    obtain ⟨hi, his⟩ := List.forall_mem_cons.mp his
    have hrest := ih (s := returnToHost (.entry (BitVec.ofNat 16 (tableEntry w p i))) s)
      ⟨h.phase, h.i, h.k, h.entries, h.r, h.b⟩ his
    simpa using (h.goesThrough_rdtab hi).append hrest

end Sys2Proof.Machine
end

section
/-! WAIT in a run (`spec/30_encoding.md` R73): its turns leave the latches, so it is over where the run it was issued in
is finished. -/

namespace Sys2Proof.Machine

/-- A move takes the next turn, if any, and no other. -/
theorem Move.turns {s t : State} (hmove : Move s t) : t.turns = s.turns.tail := by
  cases hmove <;> simp

/-- Micro-steps and POLLs leave the latches (R27, R28). -/
theorem Move.latches {s t : State} (hmove : Move s t) (hturns : ∀ x ∈ s.turns, x = .seq ∨ x = .host .poll) :
    t.wsel = s.wsel ∧ t.poly = s.poly := by
  have hhead : ∀ x ∈ s.turns.head?, x = .seq ∨ x = .host .poll := fun x hx => hturns x (List.mem_of_mem_head? hx)
  cases hmove with
  | wait | seed8 | seed16 | div8 | div16 | store | poll => simp
  | rdtab _ _ hturn | start _ _ hturn => simp [hturn] at hhead
  | reset x hturn hx => rcases hhead x hturn with rfl | rfl <;> cases hx

/-- A WAIT under way in a run of width `w` with the polynomial `p`. -/
structure Waiting (w : Width) (p : Word16) (s : State) : Prop where
  invariant : RunInvariant s
  wsel : s.wsel = w
  poly : s.poly = p
  turns : ∀ x ∈ s.turns, x = .seq ∨ x = .host .poll

theorem Waiting.step {w : Width} {p : Word16} {s t : State} (h : Waiting w p s) (hstep : step s = .next t) :
    Waiting w p t := by
  have hmove := step_move hstep
  obtain ⟨hwsel, hpoly⟩ := hmove.latches h.turns
  refine ⟨hmove.runInvariant h.invariant, hwsel.trans h.wsel, hpoly.trans h.poly, fun x hx => ?_⟩
  rw [hmove.turns] at hx
  exact h.turns x (List.mem_of_mem_tail hx)

/-- A WAIT that is over in a run: its turns go through to the end of that run, the last POLL returns DONE and those
before it BUSY (R73). -/
theorem Pending.goesThrough_wait {w : Width} {p : Word16} {n : Nat} {s : State} {gaps : List Nat} {ts : List Turn}
    (h : Pending w p n s)
    (hwait : waitTurns gaps s = some ts) : ∃ t k, GoesThrough ts s t ∧ t.turns = [] ∧ Finished w p.toNat t ∧
      ts.countP Turn.isPoll = k + 1 ∧ t.replies = .status .done :: (List.replicate k (.status .busy) ++ s.replies) := by
  obtain ⟨t, k, hrun, hturns, hdone, hcount, hreplies⟩ := run_waitTurns hwait []
  rw [List.append_nil] at hrun
  have hmem := mem_waitTurns hwait
  have hstart := h.withHost ts s.replies
  have hend : Waiting w p t := run_keeps (fun _ _ hs => hs.step) ⟨hstart.invariant, h.wsel, h.poly, hmem⟩ hrun
  have hover : Pending w p 0 t := ⟨hend.invariant, by simp [hdone], hend.wsel, hend.poly, remaining_done hdone⟩
  exact ⟨t, k, fun rest => (run_append_turns rest hmem hrun).1, hturns, hover.finished, hcount, hreplies⟩

end Sys2Proof.Machine
end

section
/-! Boot (`spec/70_reset_and_hazards.md` R172): RESET and GENERATE begin a run from any state, WAIT sees it to its end,
and RDALL reads the table. -/

namespace Sys2Proof.Machine

/-- The state in which boot issues WAIT. -/
def booted (w : Width) (p : BitVec 32) (s : State) : State := acceptStart w p.toNat { resetBlock s with turns := [] }

theorem pending_booted (w : Width) (p : BitVec 32) (s : State) :
    Pending w (polyOperand w p.toNat) 2560 (booted w p s) :=
  pending_acceptStart w p.toNat _

/-- The turns before WAIT. -/
def bootStart (w : Width) (p : BitVec 32) : List Turn :=
  [.host .reset] ++ [.host (.start (cmdWord (BitVec.ofNat 8 w.bits) p))]

/-- The turns of RDALL (R73). -/
def rdallTurns : List Turn := (List.range 256).map fun i => .host (.rdtab (BitVec.ofNat 8 i))

theorem goesThrough_reset (s : State) : GoesThrough [.host .reset] s { resetBlock s with turns := [] } :=
  goesThrough_host fun _ => rfl

theorem goesThrough_bootStart (w : Width) (p : BitVec 32) (s : State) :
    GoesThrough (bootStart w p) s (booted w p s) :=
  (goesThrough_reset s).append (goesThrough_generate w p rfl)

theorem programTurns_bootProgram (gaps : List Nat) (w : Width) (p : BitVec 32) (s : State) :
    programTurns (bootProgram gaps (BitVec.ofNat 8 w.bits) p) s =
      (programTurns [.pseudo (.wait gaps), .pseudo .rdall] (booted w p s)).map (bootStart w p ++ ·) := by
  rw [bootProgram, (goesThrough_reset s).programTurns_cons rfl rfl,
    (goesThrough_generate w p rfl).programTurns_cons rfl rfl, Option.map_map]
  rfl

/-- Boot's WAIT is over exactly when its micro-steps are the 2560 of a run or more (R124). -/
theorem isSome_waitTurns_booted (gaps : List Nat) (w : Width) (p : BitVec 32) (s : State) :
    (waitTurns gaps (booted w p s)).isSome = true ↔ 2560 ≤ gaps.sum := by
  have hrun := pending_booted w p s
  rw [isSome_waitTurns_iff gaps hrun.begun, hrun.remaining, and_iff_right_iff_imp]
  rintro hsum rfl
  simp at hsum

theorem Finished.goesThrough_rdall {w : Width} {p : Nat} {s : State} (h : Finished w p s) :
    GoesThrough rdallTurns s { s with replies :=
      ((List.range 256).map fun i => .entry (BitVec.ofNat 16 (tableEntry w p i))).reverse ++ s.replies } :=
  h.goesThrough_rdtabs fun _ => List.mem_range.mp

/-- Boot's turns, where its WAIT has turns: RDALL follows them and is not refused. -/
theorem programTurns_bootProgram_of_wait {gaps : List Nat} {w : Width} {p : BitVec 32} {s t : State} {ts : List Turn}
    (hts : waitTurns gaps (booted w p s) = some ts) (hwait : GoesThrough ts (booted w p s) t) (hturns : t.turns = [])
    (hfin : Finished w (polyOperand w p.toNat).toNat t) :
    programTurns (bootProgram gaps (BitVec.ofNat 8 w.bits) p) s = some (bootStart w p ++ (ts ++ rdallTurns)) := by
  rw [programTurns_bootProgram, hwait.programTurns_cons (l := .pseudo (.wait gaps)) hts hturns,
    hfin.goesThrough_rdall.programTurns_cons rfl hturns, programTurns_nil]
  simp

theorem countP_isPoll_bootStart (w : Width) (p : BitVec 32) : (bootStart w p).countP Turn.isPoll = 0 := rfl

theorem countP_isPoll_rdallTurns : rdallTurns.countP Turn.isPoll = 0 := by
  simp [rdallTurns, Turn.isPoll]

/-- Settles O43: the lines of boot go through one after the other, where the WAIT is over, and RDALL then reads the
table of the finished run; where the WAIT is not over, the program has no turns. -/
theorem bootDeliversTheTable : Obligations.BootDeliversTheTable := by
  intro s w p gaps
  have hover := isSome_waitTurns_booted gaps w p s
  constructor
  · intro hsum
    obtain ⟨ts, hts⟩ := Option.isSome_iff_exists.mp (hover.mpr hsum)
    obtain ⟨t, k, hwait, hturns, hfin, hcount, hreplies⟩ := (pending_booted w p s).goesThrough_wait hts
    have hboot := (goesThrough_bootStart w p s).append (hwait.append hfin.goesThrough_rdall)
    refine ⟨_, programTurns_bootProgram_of_wait hts hwait hturns hfin, fun rest =>
      ⟨_, _, k, hboot rest, generate_bits w p.toNat, rfl, hfin.phase, ?_, ?_⟩⟩
    · simp [countP_isPoll_bootStart, countP_isPoll_rdallTurns, hcount]
    · rw [hreplies, toNat_polyOperand, List.map_map]
      rfl
  · intro hsum
    have hnone : waitTurns gaps (booted w p s) = none := by
      rw [← Option.not_isSome_iff_eq_none, hover]
      omega
    rw [programTurns_bootProgram, programTurns_cons_none (l := .pseudo (.wait gaps)) _ hnone]
    rfl

end Sys2Proof.Machine
end
